-- ==== Sys2Proof/Word.lean ====
section
/-! DEFINITION. The word, byte, vector and block types (00_scope.md R8, R9; 10_state.md R20; 20_memory.md R40). -/

namespace Sys2Proof

/-- An unsigned 32-bit word, the spec's `u32` (00_scope.md R9; WORD_BITS of R8). -/
abbrev Word := BitVec 32

/-- An unsigned 8-bit byte, the spec's `u8` (00_scope.md R9). -/
abbrev Byte := BitVec 8

/-- Sixteen words: the shape of X, S and K (10_state.md R20; N_WORDS of 00_scope.md R8). -/
abbrev Words := Vector Word 16

/-- A 64-byte block, indexed by byte offset 0 to 63 (20_memory.md R40; BLOCK_BYTES of 00_scope.md R8). -/
abbrev Block := Vector Byte 64

end Sys2Proof
end

