-- ==== Sys2Proof/Syntax.lean ====
section
/-! DEFINITION. The control states, the input pins, the control selector's fields, the seven control operations (one
constructor per row of spec/opcode_table.json), the quadruples, and the stimulus language (30_encoding.md). -/

namespace Sys2Proof

/-- The control state `fsm` (10_state.md R24); its 2-bit encoding is `Fsm.bits` in Decode.lean. -/
inductive Fsm where
  | idle  -- no computation since reset; waiting for start
  | run   -- applying round rc to X
  | done  -- result in X, waiting for start
  | ff    -- 20 rounds done; the next edge performs the feed-forward
  deriving DecidableEq, Repr, Inhabited

/-- What the host drives in one cycle: `Inputs = (rst, start, in_block, const_block)` (43_control_operations.md R120;
30_encoding.md R60, R63). -/
structure Inputs where
  rst        : Bool
  start      : Bool
  inBlock    : Block
  constBlock : Block
  deriving DecidableEq, Repr, Inhabited

/-- The fields of the control selector `CS[8:0] = { rst, start, fsm[1:0], rc[4:0] }` (30_encoding.md R64). -/
structure Selector where
  rst   : Bool
  start : Bool
  fsm   : Fsm
  rc    : BitVec 5
  deriving DecidableEq, Repr, Inhabited

/-- The control operations (micro-ops), one constructor per row of spec/opcode_table.json. They have no operand fields:
"the micro-ops take no immediates and no register specifiers. Every operand is implied" (30_encoding.md R68; log 9). -/
inductive Instr where
  | reset      -- RESET      (43_control_operations.md R121)
  | load       -- LOAD       (R123)
  | idleHold   -- IDLE_HOLD  (R122)
  | doneHold   -- DONE_HOLD  (R127)
  | colround   -- COLROUND   (R124)
  | diaground  -- DIAGROUND  (R125)
  | feedfwd    -- FEEDFWD    (R126)
  deriving DecidableEq, Repr, Inhabited

/-- A quadruple: an ordered 4-tuple of word indices fed to QR (00_scope.md R14; 41_round_schedule.md R92). -/
structure Quad where
  idx0 : Fin 16
  idx1 : Fin 16
  idx2 : Fin 16
  idx3 : Fin 16
  deriving DecidableEq, Repr, Inhabited

/-- `blk` of the stimulus syntax (30_encoding.md R71). -/
inductive Blk where
  | hex128 (digits : BitVec 512)  -- 128 hex digits read as one number: byte 0 is the leftmost pair
  | zero
  | seq0
  | seq1
  | seq1_16
  | wseq1
  | ones
  deriving DecidableEq, Repr, Inhabited

/-- `op` of the stimulus syntax (30_encoding.md R71): what the host does in one cycle. -/
inductive StimOp where
  | rst
  | nop
  | go   (inBlk constBlk : Blk)
  | hold (inBlk constBlk : Blk)
  deriving DecidableEq, Repr, Inhabited

/-- The pseudo-operations of 30_encoding.md R72, beside a plain operation. -/
inductive PseudoOp where
  | op    (o : StimOp)
  | run   (inBlk constBlk : Blk)
  | wait  (n : Nat)
  | reset
  deriving DecidableEq, Repr, Inhabited

/-- `line := [label ':'] op [';' comment]` (30_encoding.md R71), with a pseudo-operation allowed as its op (R72). -/
structure StimLine where
  label   : Option String
  op      : PseudoOp
  comment : Option String
  deriving DecidableEq, Repr, Inhabited

end Sys2Proof
end

