-- ==== Sys2Proof/WellFormed.lean ====
section
/-! DEFINITION. Which control pairs are legal (10_state.md R34) and which control selectors the model gives a step to
(30_encoding.md R69). A control operation has no operand, so nothing in Instr itself can be ill formed (R68). -/

namespace Sys2Proof

/-- The reachable control pairs: "(IDLE, 0); (RUN, r) for 0 <= r <= 19; (FF, 20); (DONE, 20)" (10_state.md R34). -/
def controlReachable (fsm : Fsm) (rc : BitVec 5) : Bool :=
  match fsm with
  | .idle => rc == 0
  | .run  => decide (rc.toNat < 20)
  | .ff   => rc == 20
  | .done => rc == 20

/-- A selector the model runs: its control pair is reachable, or rst = 1, since RESET is performed "in any state"
(43_control_operations.md R121). The others "decode by rule R67" and are refused (30_encoding.md R69; log 6). The
selector of a State is always one the model runs: `Machine.Control` holds reachable pairs only. -/
def Selector.wf (c : Selector) : Bool :=
  c.rst || controlReachable c.fsm c.rc

end Sys2Proof
end

