-- ==== Sys2Proof/Decode.lean ====
section
/-! DEFINITION. The control selector's bits (30_encoding.md R64, R65), the decode table (R67), the decoder and the
encoder. CS is "not stored anywhere": the byte form below is the model's own, for a reader that hands it bytes (log 7). -/

namespace Sys2Proof

/-- fsm encoding: IDLE = 0b00, RUN = 0b01, DONE = 0b10, FF = 0b11 (30_encoding.md R65; 10_state.md R24). -/
def Fsm.bits : Fsm → BitVec 2
  | .idle => 0b00#2
  | .run  => 0b01#2
  | .done => 0b10#2
  | .ff   => 0b11#2

/-- The control state that two bits encode; all four encodings are legal (10_state.md R24). -/
def fsmOfBits (b : BitVec 2) : Fsm :=
  match b.getLsbD 1, b.getLsbD 0 with
  | false, false => .idle
  | false, true  => .run
  | true,  false => .done
  | true,  true  => .ff

/-- The selector as the 9-bit number CS (30_encoding.md R64). -/
def Selector.bits (c : Selector) : BitVec 9 :=
  BitVec.ofBool c.rst ++ BitVec.ofBool c.start ++ c.fsm.bits ++ c.rc

/-- The fields of a 9-bit CS value (30_encoding.md R64). -/
def selectorOfBits (cs : BitVec 9) : Selector where
  rst   := cs.getLsbD 8
  start := cs.getLsbD 7
  fsm   := fsmOfBits (cs.extractLsb' 5 2)
  rc    := cs.extractLsb' 0 5

/-- The mask column of the decode table (30_encoding.md R67). -/
def Instr.mask : Instr → BitVec 9
  | .reset     => 0x100#9
  | .load      => 0x1A0#9
  | .idleHold  => 0x1E0#9
  | .doneHold  => 0x1E0#9
  | .colround  => 0x161#9
  | .diaground => 0x161#9
  | .feedfwd   => 0x160#9

/-- The match column of the decode table (30_encoding.md R67). -/
def Instr.pattern : Instr → BitVec 9
  | .reset     => 0x100#9
  | .load      => 0x080#9
  | .idleHold  => 0x000#9
  | .doneHold  => 0x040#9
  | .colround  => 0x020#9
  | .diaground => 0x021#9
  | .feedfwd   => 0x060#9

/-- A CS value lies in a row of the table: `(CS & mask) == match` (30_encoding.md R67). -/
def Instr.admits (i : Instr) (cs : BitVec 9) : Bool :=
  cs &&& i.mask == i.pattern

/-- The decoder: the first row that admits the CS value (30_encoding.md R67). The rows cover all 512 values, so the last
row needs no test. -/
def decodeCS (cs : BitVec 9) : Instr :=
  if Instr.admits .reset cs then .reset
  else if Instr.admits .load cs then .load
  else if Instr.admits .idleHold cs then .idleHold
  else if Instr.admits .doneHold cs then .doneHold
  else if Instr.admits .colround cs then .colround
  else if Instr.admits .diaground cs then .diaground
  else .feedfwd

/-- The choice of micro-op as the step function's `case` writes it (43_control_operations.md R120). -/
def caseSelect (c : Selector) : Instr :=
  if c.rst then .reset
  else
    match c.fsm with
    | .idle => if c.start then .load else .idleHold
    | .done => if c.start then .load else .doneHold
    | .run  => if c.rc.getLsbD 0 then .diaground else .colround
    | .ff   => .feedfwd

/-- Why a list of bytes is no CS value: CS has one length, 9 bits (30_encoding.md R70; log 7). -/
inductive DecodeError where
  | wrongLength  -- not two bytes
  | strayBits    -- a bit above CS[8] is set
  deriving DecidableEq, Repr

/-- The decoder on bytes: two bytes, the low one first, hold CS in their low 9 bits (log 7). -/
def decode : List Byte → Except DecodeError Instr
  | [lo, hi] => if hi.toNat < 2 then .ok (decodeCS (hi.extractLsb' 0 1 ++ lo)) else .error .strayBits
  | _        => .error .wrongLength

/-- The CS value of a micro-op whose unconstrained bits (the pattern letters of 30_encoding.md R67) are those of `free`. -/
def encodeCS (i : Instr) (free : BitVec 9) : BitVec 9 :=
  i.pattern ||| (free &&& ~~~i.mask)

/-- The encoder on bytes, in the layout `decode` reads (log 7). -/
def encode (i : Instr) (free : BitVec 9) : List Byte :=
  [(encodeCS i free).extractLsb' 0 8, ((encodeCS i free).extractLsb' 8 1).zeroExtend 8]

/-- The instruction the decoder reads from a CS value numbered as spec/opcode_table.json numbers it, given as `nbits`
bits (a whole number of bytes; the bits above them are zero). -/
def decodeTableWord (nbits w : Nat) : Option Instr :=
  if w < 2 ^ nbits ∧ w < 2 ^ 16 then
    match decode [BitVec.ofNat 8 w, BitVec.ofNat 8 (w / 256)] with
    | .ok i    => some i
    | .error _ => none
  else none

end Sys2Proof
end

