-- ==== Sys2Proof/Machine/Params.lean ====
section
/-! DEFINITION. The fixed parameters of the block (00_scope.md R8) that are numbers the machine or a claim about it uses.
The widths of R8 are the types of Word.lean and Syntax.lean; ROUNDS_PER_CYCLE = 1 is the meaning of COLROUND and
DIAGROUND; MIX_CONSTANTS = false means that no definition reads K (10_state.md R23; 92_eei_decisions.md D14). -/

namespace Sys2Proof.Machine

/-- N_ROUNDS: rounds of the permutation (00_scope.md R8; 41_round_schedule.md R97). -/
def nRounds : Nat := 20

/-- N_DOUBLE_ROUNDS: double rounds of the permutation (00_scope.md R8). -/
def nDoubleRounds : Nat := 10

/-- QR_PER_ROUND: quarter-rounds in one round (00_scope.md R8; 41_round_schedule.md R99). -/
def qrPerRound : Nat := 4

/-- The rotation amounts of the quarter-round, in step order: ROT = (16, 12, 8, 7) (00_scope.md R8; 40_arx_quarter_round.md R83). -/
def rot1 : Nat := 16
/-- The second rotation amount (00_scope.md R8). -/
def rot2 : Nat := 12
/-- The third rotation amount (00_scope.md R8). -/
def rot3 : Nat := 8
/-- The fourth rotation amount (00_scope.md R8). -/
def rot4 : Nat := 7

/-- LATENCY: clock edges from the LOAD edge to the first cycle with done = 1, the LOAD edge included (00_scope.md R8;
70_reset_and_hazards.md R171). -/
def latency : Nat := 22

end Sys2Proof.Machine
end

