-- ==== Sys2Proof/Machine/Ports.lean ====
section
/-! DEFINITION. The 64-byte port spaces: byte order, block access, the 512-bit bus, loading a block into words and
serializing words into a block (20_memory.md R40 to R49; 30_encoding.md R61, R62; 42_feedforward_serialize.md R110, R113).
The block has no other memory (20_memory.md R41; log 15). -/

namespace Sys2Proof.Machine

/-- `MemRead(blk, a, n)`: the n bytes blk[a], ..., blk[a+n-1] (00_scope.md R12). -/
def memRead (blk : Block) (a n : Nat) : List Byte :=
  (blk.toList.drop a).take n

/-- `MemWrite(out, a, n, v)` with the n bytes of v given in order: output bytes a to a+n-1 are driven with them
(00_scope.md R12). -/
def memWrite (out : Block) (a : Nat) (bytes : List Byte) : Block :=
  Vector.ofFn fun k => if a ≤ k.val then bytes.getD (k.val - a) out[k] else out[k]

/-- The word of four bytes, the first one least significant (20_memory.md R42). -/
def leWord (b0 b1 b2 b3 : Byte) : Word :=
  b0.zeroExtend 32 ||| (b1.zeroExtend 32 <<< 8) ||| (b2.zeroExtend 32 <<< 16) ||| (b3.zeroExtend 32 <<< 24)

/-- `LE32(blk, i)`: word i is built from the four bytes at offset 4i (20_memory.md R42). -/
def le32 (blk : Block) (i : Fin 16) : Word :=
  leWord blk[4 * i.val] blk[4 * i.val + 1] blk[4 * i.val + 2] blk[4 * i.val + 3]

/-- `LE32_STORE(w)`: the bytes (w[7:0], w[15:8], w[23:16], w[31:24]), low byte first (20_memory.md R43). -/
def le32Store (w : Word) : Vector Byte 4 :=
  Vector.ofFn fun k => w.extractLsb' (8 * k.val) 8

/-- DESERIALIZE(blk): `W[i] = LE32(blk, i)` (42_feedforward_serialize.md R110). -/
def deserialize (blk : Block) : Words :=
  Vector.ofFn fun i => le32 blk i

/-- SERIALIZE(Y): `out[4i + k] = Y[i][8k+7:8k]` (42_feedforward_serialize.md R113). -/
def serialize (Y : Words) : Block :=
  Vector.ofFn fun j => (le32Store Y[j.val / 4])[j.val % 4]

/-- The little-endian number of a list of bytes (30_encoding.md R61). -/
def leNat : List Byte → Nat
  | []      => 0
  | b :: bs => b.toNat + 256 * leNat bs

/-- A block on the 512-bit bus: byte k at bits [8k+7:8k], so that the bus is the block read as a little-endian number
(30_encoding.md R61). -/
def toBus (blk : Block) : BitVec 512 :=
  BitVec.ofNat 512 (leNat blk.toList)

/-- The block a 512-bit bus carries: `blk[k] = bus[8k+7:8k]` (30_encoding.md R61). -/
def ofBus (bus : BitVec 512) : Block :=
  Vector.ofFn fun k => bus.extractLsb' (8 * k.val) 8

/-- Word i of a bus, `bus[32i+31:32i]` (30_encoding.md R62). -/
def busWord (bus : BitVec 512) (i : Fin 16) : Word :=
  bus.extractLsb' (32 * i.val) 32

end Sys2Proof.Machine
end

