-- ==== Sys2Proof/Machine/Datapath.lean ====
section
/-! DEFINITION. The datapath as pure functions: ARX primitives and the quarter-round (40_arx_quarter_round.md), the round
schedule and the permutation (41_round_schedule.md), the accumulator and the block function (42_feedforward_serialize.md).
None has a flag or an exception (10_state.md R30; 60_exceptions.md R140). -/

namespace Sys2Proof.Machine

/-- ADD32: addition mod 2^32, `(zext_33(a) + zext_33(b))[31:0]`; the carry is recorded nowhere (40_arx_quarter_round.md R80). -/
def add32 (a b : Word) : Word :=
  (a.zeroExtend 33 + b.zeroExtend 33).extractLsb' 0 32

/-- XOR32 (40_arx_quarter_round.md R81). -/
def xor32 (a b : Word) : Word := a ^^^ b

/-- ROTL32: `((x << n) | (x >>> (32 - n)))[31:0]` (40_arx_quarter_round.md R82); the block uses it with n in {16, 12, 8, 7}. -/
def rotl32 (x : Word) (n : Nat) : Word :=
  (x <<< n) ||| (x >>> (32 - n))

/-- QR, the quarter-round mixer: each step uses the values the steps before it made, and the four results are returned
together (40_arx_quarter_round.md R83, R84; 90_conflicts.md C1). -/
def qr (a b c d : Word) : Word × Word × Word × Word :=
  let a1 := add32 a b
  let d1 := rotl32 (xor32 d a1) rot1
  let c1 := add32 c d1
  let b1 := rotl32 (xor32 b c1) rot2
  let a2 := add32 a1 b1
  let d2 := rotl32 (xor32 d1 a2) rot3
  let c2 := add32 c1 d2
  let b2 := rotl32 (xor32 b1 c2) rot4
  (a2, b2, c2, d2)

/-- The column-type quadruples, in order (41_round_schedule.md R90). -/
def colQ : List Quad :=
  [⟨4, 8, 12, 0⟩, ⟨9, 13, 1, 5⟩, ⟨14, 2, 6, 10⟩, ⟨3, 7, 11, 15⟩]

/-- The diagonal-type quadruples, in order (41_round_schedule.md R91; the name is only a label, 90_conflicts.md C5). -/
def diagQ : List Quad :=
  [⟨1, 6, 11, 0⟩, ⟨12, 5, 10, 15⟩, ⟨2, 7, 8, 13⟩, ⟨3, 4, 9, 14⟩]

/-- APPLYQ: QR of the four words a quadruple names, idx0 to a, idx1 to b, idx2 to c, idx3 to d, the results written back
to the same four indices once all are computed (41_round_schedule.md R92; 90_conflicts.md C2). -/
def applyQ (V : Words) (q : Quad) : Words :=
  match qr V[q.idx0] V[q.idx1] V[q.idx2] V[q.idx3] with
  | (a, b, c, d) => (((V.set q.idx0 a).set q.idx1 b).set q.idx2 c).set q.idx3 d

/-- Quadruples applied one after the other, in the list's order (41_round_schedule.md R93, R94). -/
def applyAll (qs : List Quad) (V : Words) : Words :=
  qs.foldl applyQ V

/-- COLROUND(V), the column round (41_round_schedule.md R93). -/
def colRound (V : Words) : Words := applyAll colQ V

/-- DIAGROUND(V), the diagonal round (41_round_schedule.md R94). -/
def diagRound (V : Words) : Words := applyAll diagQ V

/-- DOUBLEROUND(V) = DIAGROUND(COLROUND(V)) (41_round_schedule.md R96). -/
def doubleRound (V : Words) : Words := diagRound (colRound V)

/-- Round r: a column round when r is even, a diagonal round when r is odd (41_round_schedule.md R97, R98). -/
def roundAt (r : Nat) (V : Words) : Words :=
  if r % 2 = 0 then colRound V else diagRound V

/-- Rounds 0 to n-1, in order (the loop of 41_round_schedule.md R97, stopped after n rounds). -/
def rounds : Nat → Words → Words
  | 0,     V => V
  | n + 1, V => roundAt n (rounds n V)

/-- PERMUTE20(V), the 20-round permutation (41_round_schedule.md R97). -/
def permute20 (V : Words) : Words := rounds nRounds V

/-- ACCUMULATE(S, W), the feed-forward: `Y[i] = ADD32(S[i], W[i])` (42_feedforward_serialize.md R112). -/
def accumulate (S W : Words) : Words :=
  Vector.ofFn fun i => add32 S[i] W[i]

/-- SalsaCore(in, const), the block function; the constants words are loaded and never read
(42_feedforward_serialize.md R114, R111). -/
def salsaCore (inBlk constBlk : Block) : Block :=
  let S := deserialize inBlk
  let _K := deserialize constBlk
  let W := permute20 S
  let Y := accumulate S W
  serialize Y

end Sys2Proof.Machine
end

