-- ==== Sys2Proof/Config.lean ====
section
/-! DEFINITION. The free values: what the spec leaves without a value. Each is an opaque constant, so that nothing in
Lean can evaluate it and a statement about it holds whatever it is. The spec leaves no parameter open ("No parameter is
left open to the model", 00_scope.md R8): the fixed parameters are in Machine/Params.lean. -/

namespace Sys2Proof

/-- The pins in a cycle that the state's script does not list: the host drives them as it likes (20_memory.md R55),
a draw per cycle (log 1). -/
opaque Config.hostInputs : Nat → Inputs

/-- X after the micro-op RESET at the edge of a given cycle, from X before it: "X, S and K become unspecified"
(43_control_operations.md R121; 93_implementation_defined.md U4, any value; log 4). Keeping X and clearing X are two of
the values this constant may have. -/
opaque Config.xAfterReset : Nat → Words → Words

/-- S after the micro-op RESET, as `Config.xAfterReset` (43_control_operations.md R121; U4; log 4). -/
opaque Config.sAfterReset : Nat → Words → Words

/-- K after the micro-op RESET, as `Config.xAfterReset` (43_control_operations.md R121; U4; log 4). -/
opaque Config.kAfterReset : Nat → Words → Words

/-- The value on out_block in a cycle with done = 0, given the cycle and X: "any value: a draw per cycle, under no law"
(93_implementation_defined.md U3; 10_state.md R29; log 5). -/
opaque Config.outWhileNotDone : Nat → Words → Block

/-- The in_block data bits of an RST or NOP stimulus line, which are don't care (30_encoding.md R71, R73; log 10). -/
opaque Config.dontCareIn : Nat → Block

/-- The const_block data bits of an RST or NOP stimulus line, which are don't care (30_encoding.md R71, R73; log 10). -/
opaque Config.dontCareConst : Nat → Block

end Sys2Proof
end

