-- ==== Sys2Proof/Machine/State.lean ====
section
/-! DEFINITION. The state of the block (10_state.md R20), the two fields the model adds to it, the reasons a step can
stop, and the state right after reset (10_state.md R32). -/

namespace Sys2Proof.Machine

/-- The control registers fsm and rc together, as a type whose values are exactly the reachable pairs: "(IDLE, 0);
(RUN, r) for 0 <= r <= 19; (FF, 20); (DONE, 20)"; "A model should use a state type that excludes" every other pair
(10_state.md R34; 30_encoding.md R69). The two registers are read as `State.fsm` and `State.rc` and written through
`writeControl`. -/
inductive Control where
  | idle              -- (IDLE, 0)
  | run (r : Fin 20)  -- (RUN, r)
  | ff                -- (FF, 20)
  | done              -- (DONE, 20)
  deriving DecidableEq, Repr, Inhabited

/-- The block's state is `(fsm, rc, X[0..15], S[0..15], K[0..15])` (10_state.md R20). `script` and `cycle` are the
model's own: the inputs are an argument of the spec's step (43_control_operations.md R120), which Host.Core's has not. -/
structure State where
  X       : Words        -- working vector (10_state.md R21)
  S       : Words        -- state vector, the snapshot of the input words (R22)
  K       : Words        -- constants words, loaded and never read (R23)
  control : Control      -- control state fsm (R24) and round counter rc (R25), in one of R34's pairs
  script  : List Inputs  -- the inputs of this cycle and of the following ones, this one's first (log 1)
  cycle   : Nat          -- the cycle t of the time convention, which picks the free values (log 2)
  deriving DecidableEq, Repr

/-- No fault exists: "The block raises no exception. No micro-op and no datapath function has an error outcome"
(60_exceptions.md R140; log 18). The type is empty, so no meaning can answer one (safe: there is nothing to raise). -/
inductive Fault where
  deriving DecidableEq, Repr

/-- Why the model gives no step. -/
inductive Refusal where
  /-- Raised by an arm of `exec` whose instruction has no meaning yet. No arm raises it: all seven have one. Safe. -/
  | notModelled (mnemonic : String)
  /-- The control pair is none of 10_state.md R34: "Hardware behaviour in an unreachable pair is unspecified"; the model
  refuses it (30_encoding.md R69; 93_implementation_defined.md U5; log 6). Raised by the selection (`selectMicroOp` in
  Machine/Ops.lean) for a selector with such a pair and rst = 0, and by `writeControl` for such a pair to be written, which
  a micro-op asks for only where CS does not select it (log 12). No step raises it: State holds no such pair. Safe. -/
  | unreachableControl (fsm : Fsm) (rc : BitVec 5)
  deriving DecidableEq, Repr

/-- The state right after reset: fsm = IDLE and rc = 0 (10_state.md R32). X, S and K are "unspecified" there: zero is a
DESIGN CHOICE (log 3). Nothing stands in the script (log 1) and the cycle count starts at 0 (log 2). -/
def State.reset : State where
  X       := Vector.replicate 16 0
  S       := Vector.replicate 16 0
  K       := Vector.replicate 16 0
  control := .idle
  script  := []
  cycle   := 0

end Sys2Proof.Machine
end

