-- ==== Sys2Proof/Machine/Operands.lean ====
section
/-! DEFINITION. The operands of the micro-ops: the control registers, the inputs sampled at an edge and the words LOAD takes from them. All
operands are implied (30_encoding.md R68). -/

namespace Sys2Proof.Machine

/-- The control state of a control pair (10_state.md R24, R34). -/
def Control.fsm : Control → Fsm
  | .idle  => .idle
  | .run _ => .run
  | .ff    => .ff
  | .done  => .done

/-- The round counter of a control pair: r in RUN, 20 in FF and DONE, 0 in IDLE (10_state.md R25, R34). -/
def Control.rc : Control → BitVec 5
  | .idle  => 0
  | .run r => BitVec.ofNat 5 r.val
  | .ff    => 20
  | .done  => 20

/-- The control registers that hold a given pair, where the pair is reachable (10_state.md R34). -/
def Control.ofPair (fsm : Fsm) (rc : BitVec 5) : Option Control :=
  match fsm with
  | .idle => if rc = 0 then some .idle else none
  | .run  => if h : rc.toNat < 20 then some (.run ⟨rc.toNat, h⟩) else none
  | .ff   => if rc = 20 then some .ff else none
  | .done => if rc = 20 then some .done else none

/-- The register `fsm` (10_state.md R24). -/
def State.fsm (s : State) : Fsm := s.control.fsm

/-- The register `rc` (10_state.md R25). -/
def State.rc (s : State) : BitVec 5 := s.control.rc

/-- The inputs of the cycle `j` cycles after this one: the script's, or the host's free choice beyond it (log 1). -/
def State.inputsAt (s : State) (j : Nat) : Inputs :=
  s.script.getD j (Config.hostInputs (s.cycle + j))

/-- The inputs sampled at the edge that ends this cycle (43_control_operations.md R120). -/
def State.pins (s : State) : Inputs := s.inputsAt 0

/-- LOAD's data words: the words of in_block, by LE32 (30_encoding.md R68 (a)). -/
def State.loadWords (s : State) : Words := deserialize s.pins.inBlock

/-- LOAD's constants words: the words of const_block, by LE32 (42_feedforward_serialize.md R111). -/
def State.loadConstants (s : State) : Words := deserialize s.pins.constBlock

/-- The control selector of this cycle, CS = { rst, start, fsm, rc } (30_encoding.md R64). -/
def State.selector (s : State) : Selector where
  rst   := s.pins.rst
  start := s.pins.start
  fsm   := s.fsm
  rc    := s.rc

end Sys2Proof.Machine
end

