-- ==== Sys2Proof/Machine/Ops.lean ====
section
/-! DEFINITION. The operations on the state that the micro-ops share. The block takes no exception and returns from none
(60_exceptions.md R140, R143, R144), so there is no exception-entry operation; the nearest analogue is RESET (R143). -/

namespace Sys2Proof.Machine

/-- The micro-op a control selector selects: the decode of CS (30_encoding.md R67), refused when the selector's control pair
is unreachable and rst = 0 (30_encoding.md R69; log 6). -/
def selectMicroOp (c : Selector) : Except Refusal Instr :=
  if c.wf then .ok (decodeCS c.bits) else .error (.unreachableControl c.fsm c.rc)

/-- The micro-op of this edge (43_control_operations.md R120). -/
def fetch (s : State) : Except Refusal Instr :=
  selectMicroOp s.selector

/-- The state with other control registers. -/
def State.withControl (s : State) (c : Control) : State :=
  { s with control := c }

/-- The write of the control registers, `fsm <- ...; rc <- ...`: refused for an unreachable pair, which State cannot hold
(10_state.md R34; 30_encoding.md R69; log 6). -/
def writeControl (fsm : Fsm) (rc : BitVec 5) (s : State) : Host.Outcome State Fault Refusal :=
  match Control.ofPair fsm rc with
  | some c => .next (s.withControl c)
  | none   => .refused (.unreachableControl fsm rc)

/-- X, S and K become unspecified, free values (43_control_operations.md R121; 10_state.md R32; log 4). -/
def loseVectors (s : State) : State :=
  { s with
    X := Config.xAfterReset s.cycle s.X
    S := Config.sAfterReset s.cycle s.S
    K := Config.kAfterReset s.cycle s.K }

/-- The loading of the vectors: X and S from the input words, K from the constants words, all at one edge
(43_control_operations.md R123; 20_memory.md R47). -/
def loadVectors (W C : Words) (s : State) : State :=
  { s with X := W, S := W, K := C }

/-- One round on the engine: the 16 new words of X from the old X (43_control_operations.md R124, R125;
70_reset_and_hazards.md R166). -/
def applyRound (round : Words → Words) (s : State) : State :=
  { s with X := round s.X }

/-- The fsm a DIAGROUND leaves: "if rc == 19 (value before the edge): fsm <- FF" (43_control_operations.md R125). -/
def fsmAfterDiagonal (s : State) : Fsm :=
  if s.rc = 19 then .ff else s.fsm

/-- The feed-forward: `X <- ACCUMULATE(S, X)` (43_control_operations.md R126). -/
def feedForward (s : State) : State :=
  { s with X := accumulate s.S s.X }

/-- The end of a cycle: the cycle's inputs are gone and the next cycle begins (00_scope.md R14; log 1, log 2). -/
def State.advance (s : State) : State :=
  { s with script := s.script.tail, cycle := s.cycle + 1 }

/-- The outcome of a micro-op, carried into the next cycle. -/
def retire : Host.Outcome State Fault Refusal → Host.Outcome State Fault Refusal
  | .next s    => .next s.advance
  | .fault r   => .fault r
  | .refused r => .refused r

/-- The control registers with which a selector's micro-op runs: its own pair where that is reachable, else the reachable
pair of the same fsm in the same row of the decode table (10_state.md R34; 30_encoding.md R67; log 8). -/
def controlOf (c : Selector) : Control :=
  match c.fsm with
  | .idle => .idle
  | .run  => if h : c.rc.toNat < 20 then .run ⟨c.rc.toNat, h⟩ else .run ⟨c.rc.toNat % 16, by omega⟩
  | .ff   => .ff
  | .done => .done

/-- The state in whose present cycle the control selector is `cs`: rst and start on the pins, fsm and rc in the control
registers; the data pins stay as they are (30_encoding.md R64; log 8). -/
def State.placeSelector (s : State) (cs : BitVec 9) : State :=
  let c := selectorOfBits cs
  { s with
    control := controlOf c
    script  := { s.pins with rst := c.rst, start := c.start } :: s.script.tail }

end Sys2Proof.Machine
end

