-- ==== Sys2Proof/Machine/Accumulator.lean ====
section
/-! DEFINITION. The meaning of FEEDFWD, the state accumulator (43_control_operations.md R126). start is ignored (R128). -/

namespace Sys2Proof.Machine

/-- FEEDFWD: `X[i] <- S[i] + X[i] mod 2^32; fsm <- DONE`; rc stays (43_control_operations.md R126). -/
def execFeedfwd (s : State) : Host.Outcome State Fault Refusal :=
  writeControl .done s.rc (feedForward s)

end Sys2Proof.Machine
end

