-- ==== Sys2Proof/Machine/Control.lean ====
section
/-! DEFINITION. The meanings of RESET, LOAD, IDLE_HOLD and DONE_HOLD (43_control_operations.md R121, R122, R123, R127).
A meaning is the effect of the micro-op where it is selected; it checks no selection of its own (log 12). -/

namespace Sys2Proof.Machine

/-- RESET: `fsm <- IDLE; rc <- 0` (43_control_operations.md R121). -/
def execReset (s : State) : Host.Outcome State Fault Refusal :=
  writeControl .idle 0 (loseVectors s)

/-- LOAD: samples the inputs and starts a computation, `rc <- 0; fsm <- RUN` (43_control_operations.md R123). -/
def execLoad (s : State) : Host.Outcome State Fault Refusal :=
  writeControl .run 0 (loadVectors s.loadWords s.loadConstants s)

/-- IDLE_HOLD: no state changes (43_control_operations.md R122). -/
def execIdleHold (s : State) : Host.Outcome State Fault Refusal :=
  .next s

/-- DONE_HOLD: no state changes (43_control_operations.md R127). -/
def execDoneHold (s : State) : Host.Outcome State Fault Refusal :=
  .next s

end Sys2Proof.Machine
end

