-- ==== Sys2Proof/Machine/Rounds.lean ====
section
/-! DEFINITION. The meanings of COLROUND and DIAGROUND (43_control_operations.md R124, R125). start is ignored in both
(R128). -/

namespace Sys2Proof.Machine

/-- COLROUND: one column round; `rc <- rc + 1`, fsm stays RUN (43_control_operations.md R124). -/
def execColround (s : State) : Host.Outcome State Fault Refusal :=
  writeControl s.fsm (s.rc + 1) (applyRound colRound s)

/-- DIAGROUND: one diagonal round; `rc <- rc + 1`, "if rc == 19 (value before the edge): fsm <- FF" (43_control_operations.md R125). -/
def execDiaground (s : State) : Host.Outcome State Fault Refusal :=
  writeControl (fsmAfterDiagonal s) (s.rc + 1) (applyRound diagRound s)

end Sys2Proof.Machine
end

