-- ==== Sys2Proof/Machine/Dispatch.lean ====
section
/-! DEFINITION. One arm per control operation (43_control_operations.md R121 to R127). -/

namespace Sys2Proof.Machine

def exec (i : Instr) (s : State) : Host.Outcome State Fault Refusal :=
  match i with
  | .reset => Sys2Proof.Machine.execReset s
  | .load => Sys2Proof.Machine.execLoad s
  | .idleHold => Sys2Proof.Machine.execIdleHold s
  | .doneHold => Sys2Proof.Machine.execDoneHold s
  | .colround => Sys2Proof.Machine.execColround s
  | .diaground => Sys2Proof.Machine.execDiaground s
  | .feedfwd => Sys2Proof.Machine.execFeedfwd s

end Sys2Proof.Machine
end

