-- ==== Sys2Proof/Machine/Flags.lean ====
section
/-! DEFINITION. The status outputs and out_block, functions of the state alone (10_state.md R27, R28, R29). The block has
no flags or condition codes beyond busy and done (10_state.md R30). -/

namespace Sys2Proof.Machine

/-- `busy` = 1 exactly when fsm is RUN or FF (10_state.md R27). -/
def State.busy (s : State) : Bool :=
  match s.fsm with
  | .run | .ff    => true
  | .idle | .done => false

/-- `done` = 1 exactly when fsm = DONE (10_state.md R28). -/
def State.done (s : State) : Bool :=
  match s.fsm with
  | .done              => true
  | .idle | .run | .ff => false

/-- The status output `{busy, done}` (30_encoding.md R66). -/
def State.status (s : State) : BitVec 2 :=
  BitVec.ofBool s.busy ++ BitVec.ofBool s.done

/-- `out_block` = SERIALIZE(X) when fsm = DONE; otherwise it is unspecified, a free value (10_state.md R29; log 5). -/
def State.outBlock (s : State) : Block :=
  if s.done then serialize s.X else Config.outWhileNotDone s.cycle s.X

/-- `out_block` on the 512-bit bus (30_encoding.md R60, R61). -/
def State.outBus (s : State) : BitVec 512 := toBus s.outBlock

end Sys2Proof.Machine
end

