-- ==== Sys2Proof/Machine/Step.lean ====
section
/-! DEFINITION. One clock edge (43_control_operations.md R120), and the placing of a control selector for the next edge. -/

namespace Sys2Proof.Machine

/-- One rising edge of clk: select the micro-op, perform it, begin the next cycle (43_control_operations.md R120). -/
def step (s : State) : Host.Outcome State Fault Refusal :=
  match fetch s with
  | .ok i    => retire (exec i s)
  | .error r => .refused r

/-- The state in whose present cycle the micro-op of the CS value `w` is selected (log 8). -/
def State.withFetchWord (s : State) (nbits w : Nat) : State :=
  s.placeSelector (BitVec.ofNat 9 (w % 2 ^ nbits))

end Sys2Proof.Machine
end

