-- ==== Sys2Proof/Machine/Stimulus.lean ====
section
/-! DEFINITION. The stimulus scripts of 30_encoding.md R71 to R73: the named blocks, the inputs of each line, the
pseudo-operations and the 1026-bit stimulus word. A script's lines as inputs are what State's `script` holds (log 8). -/

namespace Sys2Proof.Machine

/-- A block from 128 hex digits, byte 0 the leftmost pair (30_encoding.md R71). -/
def ofHex128 (digits : BitVec 512) : Block :=
  Vector.ofFn fun k => digits.extractLsb' (8 * (63 - k.val)) 8

/-- The named blocks (30_encoding.md R71; listed byte by byte in 95_test_vectors.md, 2.1). -/
def blockOf : Blk → Block
  | .hex128 d => ofHex128 d
  | .zero     => Vector.replicate 64 0
  | .seq0     => Vector.ofFn fun k => BitVec.ofNat 8 k.val
  | .seq1     => Vector.ofFn fun k => BitVec.ofNat 8 (k.val + 1)
  | .seq1_16  => Vector.ofFn fun k => if k.val < 16 then BitVec.ofNat 8 (k.val + 1) else 0
  | .wseq1    => serialize (Vector.ofFn fun i => BitVec.ofNat 32 (i.val + 1))
  | .ones     => Vector.replicate 64 0xff

/-- The inputs an operation stands for in cycle t (30_encoding.md R71, R73); don't-care data is a free value (log 10). -/
def inputsOf (t : Nat) : StimOp → Inputs
  | .rst      => { rst := true, start := false, inBlock := Config.dontCareIn t, constBlock := Config.dontCareConst t }
  | .nop      => { rst := false, start := false, inBlock := Config.dontCareIn t, constBlock := Config.dontCareConst t }
  | .go a b   => { rst := false, start := true, inBlock := blockOf a, constBlock := blockOf b }
  | .hold a b => { rst := false, start := false, inBlock := blockOf a, constBlock := blockOf b }

/-- The pseudo-operations' expansions: `RUN a, b` is `GO a, b` and 21 NOP, `WAIT n` is n NOP, `RESET` is RST
(30_encoding.md R72). -/
def expand : PseudoOp → List StimOp
  | .op o    => [o]
  | .run a b => .go a b :: List.replicate 21 .nop
  | .wait n  => List.replicate n .nop
  | .reset   => [.rst]

/-- The inputs of a list of operations, one cycle each, the first in cycle t. -/
def inputsFrom : Nat → List StimOp → List Inputs
  | _, []      => []
  | t, o :: os => inputsOf t o :: inputsFrom (t + 1) os

/-- A stimulus script as the list of its cycles' inputs (30_encoding.md R71). -/
def scriptOf (t : Nat) (lines : List StimLine) : List Inputs :=
  inputsFrom t (lines.flatMap fun l => expand l.op)

/-- The stimulus word `{rst, start, const_block[511:0], in_block[511:0]}` of one cycle (30_encoding.md R73). -/
def stimulusWord (i : Inputs) : BitVec 1026 :=
  BitVec.ofBool i.rst ++ BitVec.ofBool i.start ++ toBus i.constBlock ++ toBus i.inBlock

/-- The inputs a stimulus word encodes (30_encoding.md R73). -/
def ofStimulusWord (w : BitVec 1026) : Inputs where
  rst        := w.getLsbD 1025
  start      := w.getLsbD 1024
  constBlock := ofBus (w.extractLsb' 512 512)
  inBlock    := ofBus (w.extractLsb' 0 512)

end Sys2Proof.Machine
end

