-- ==== Sys2Proof/Safety.lean ====
section
/-! DEFINITION. What claims say of a run: the control pairs, the data invariant, the host's duties, and a number of
edges in a row. -/

namespace Sys2Proof

open Sys2Proof.Machine

/-- The control pair is one of 10_state.md R34's. Every State is so (`controlOk` in Laws/State.lean): the type `Control`
excludes the other pairs. -/
abbrev ControlOk (s : State) : Prop := controlReachable s.fsm s.rc = true

/-- The data invariant of a computation, which holds of every state a run from reset goes through: X is the result of r
rounds on S in (RUN, r), PERMUTE20(S) before the feed-forward and ACCUMULATE(S, PERMUTE20(S)) when done
(43_control_operations.md R129, with S the words loaded). -/
def DataOk (s : State) : Prop :=
  match s.control with
  | .idle  => True
  | .run r => s.X = rounds r.val s.S
  | .ff    => s.X = permute20 s.S
  | .done  => s.X = accumulate s.S (permute20 s.S)

/-- `k` edges in a row, stopping at a refusal. -/
def runFor : Nat → State → Host.Outcome State Fault Refusal
  | 0,     s => .next s
  | k + 1, s =>
    match step s with
    | .next s'   => runFor k s'
    | .fault r   => .fault r
    | .refused r => .refused r

/-- A LOAD happens at the edge of this cycle: start = 1, rst = 0, fsm IDLE or DONE
(43_control_operations.md R123; 20_memory.md R50). -/
abbrev LoadsNow (s : State) : Prop :=
  s.pins.rst = false ∧ s.pins.start = true ∧ (s.fsm = .idle ∨ s.fsm = .done)

/-- The host holds rst at 0 in the `n` cycles that follow this one (43_control_operations.md R129). -/
abbrev NoResetAfter (s : State) (n : Nat) : Prop :=
  ∀ j < n, (s.inputsAt (j + 1)).rst = false

/-- Two cycles' inputs agree in everything but the constants block (42_feedforward_serialize.md R115). -/
def AgreeButConstants (p q : Inputs) : Prop :=
  p.rst = q.rst ∧ p.start = q.start ∧ p.inBlock = q.inBlock

/-- Two states that differ at most in K, in the constants blocks of this cycle and all following ones, in the cycle count
and, when no computation has been loaded (IDLE), in X and S (10_state.md R23, R31, R32). -/
def SameButConstants (s t : State) : Prop :=
  s.fsm = t.fsm ∧ s.rc = t.rc ∧ (s.fsm ≠ .idle → s.X = t.X ∧ s.S = t.S) ∧
    ∀ j, AgreeButConstants (s.inputsAt j) (t.inputsAt j)

end Sys2Proof
end

