-- ==== Sys2Proof/Certificates/Slice0/Obligations.lean ====
section
/-! DEFINITION. The statements about the model, for the provers. Each docstring names the rules of spec/ it formalises. -/

open Sys2Proof Sys2Proof.Machine

/-! ## Encoding and selection -/

/-- 30_encoding.md R67: each CS value selects exactly the micro-op of the one row with `(CS & mask) == match`; masks and
matches as the table prints them. -/
def Obligations.DecodeTableRows : Prop :=
  ∀ cs : BitVec 9,
    (decodeCS cs = .reset ↔ cs &&& 0x100#9 = 0x100#9) ∧
    (decodeCS cs = .load ↔ cs &&& 0x1A0#9 = 0x080#9) ∧
    (decodeCS cs = .idleHold ↔ cs &&& 0x1E0#9 = 0x000#9) ∧
    (decodeCS cs = .doneHold ↔ cs &&& 0x1E0#9 = 0x040#9) ∧
    (decodeCS cs = .colround ↔ cs &&& 0x161#9 = 0x020#9) ∧
    (decodeCS cs = .diaground ↔ cs &&& 0x161#9 = 0x021#9) ∧
    (decodeCS cs = .feedfwd ↔ cs &&& 0x160#9 = 0x060#9)

/-- 60_exceptions.md R142, with the condition column of 30_encoding.md R67: rst wins over everything; then start in IDLE
or DONE; then the round or the feed-forward, start ignored. The decode table is the `case` of 43_control_operations.md
R120, and an edge performs the one micro-op it selects. -/
def Obligations.PriorityOfSimultaneousEvents : Prop :=
  ∀ c : Selector,
    decodeCS c.bits = caseSelect c ∧
    (c.rst = true → decodeCS c.bits = .reset) ∧
    (c.rst = false →
      (c.fsm = .idle → decodeCS c.bits = if c.start then .load else .idleHold) ∧
      (c.fsm = .done → decodeCS c.bits = if c.start then .load else .doneHold) ∧
      (c.fsm = .run → decodeCS c.bits = if c.rc.toNat % 2 = 0 then .colround else .diaground) ∧
      (c.fsm = .ff → decodeCS c.bits = .feedfwd)) ∧
    ∀ s : State, s.selector = c → step s = retire (exec (caseSelect c) s)

/-- 30_encoding.md R64, R65: the places of the four fields in CS[8:0] and the fsm code; the nine bits hold nothing else;
and the selector of a cycle is made of the sampled rst and start and of fsm and rc. -/
def Obligations.ControlSelectorLayout : Prop :=
  (∀ c : Selector,
    c.bits.getLsbD 8 = c.rst ∧ c.bits.getLsbD 7 = c.start ∧
    c.bits.extractLsb' 5 2 =
      (match c.fsm with | .idle => 0b00#2 | .run => 0b01#2 | .done => 0b10#2 | .ff => 0b11#2) ∧
    c.bits.extractLsb' 0 5 = c.rc ∧ selectorOfBits c.bits = c) ∧
  (∀ cs : BitVec 9, (selectorOfBits cs).bits = cs) ∧
  (∀ f : Fsm, f.bits.getLsbD 0 = true ↔ f = .run ∨ f = .ff) ∧
  (∀ s : State, s.selector = { rst := s.pins.rst, start := s.pins.start, fsm := s.fsm, rc := s.rc })

/-- Decode and encode agree, on the byte layout the model chose for CS (log 7): a list of bytes decodes to a micro-op
exactly when it is that micro-op's encoding with some pattern letters. -/
def Obligations.DecodeIsInverseOfEncode : Prop :=
  ∀ (bytes : List Byte) (i : Instr), decode bytes = .ok i ↔ ∃ free : BitVec 9, bytes = encode i free

/-- A few CS values of 95_test_vectors.md, 2.9, one for each micro-op, written out from the pattern of 30_encoding.md R67. -/
def Obligations.DecodeSanityWords : Prop :=
  decodeCS 0b100100100#9 = .reset ∧ decodeCS 0b010000000#9 = .load ∧ decodeCS 0b000000000#9 = .idleHold ∧
  decodeCS 0b001010100#9 = .doneHold ∧ decodeCS 0b010100000#9 = .colround ∧ decodeCS 0b000110011#9 = .diaground ∧
  decodeCS 0b011110100#9 = .feedfwd

/-! ## The step -/

/-- A step runs the decoded micro-op: it is exec of the selected micro-op, after which the cycle's inputs leave the script
and the cycle count goes up (the model's own fields, log 1 and log 2). It holds of every state, so that no edge is refused.
43_control_operations.md R120. -/
def Obligations.StepRunsTheSelectedMicroOp : Prop :=
  ∀ s : State,
    ∃ u t, exec (decodeCS s.selector.bits) s = .next u ∧ step s = .next t ∧
      t.X = u.X ∧ t.S = u.S ∧ t.K = u.K ∧ t.fsm = u.fsm ∧ t.rc = u.rc ∧
      t.script = s.script.tail ∧ t.cycle = s.cycle + 1 ∧ ∀ j, t.inputsAt j = s.inputsAt (j + 1)

/-- The state type excludes the unreachable control pairs and the model refuses them by name: a selector with such a pair
and rst = 0 selects nothing, though its CS decodes, and such a pair is not written (30_encoding.md R69, 10_state.md R34,
93_implementation_defined.md U5; log 6). -/
def Obligations.UnreachableControlIsRefused : Prop :=
  ∀ (f : Fsm) (r : BitVec 5),
    ¬((f = .idle ∧ r = 0) ∨ (f = .run ∧ r.toNat ≤ 19) ∨ (f = .ff ∧ r = 20) ∨ (f = .done ∧ r = 20)) →
    (∀ s : State, ¬(s.fsm = f ∧ s.rc = r)) ∧
    (∀ start : Bool, selectMicroOp ⟨false, start, f, r⟩ = .error (.unreachableControl f r)) ∧
    ∀ s : State, writeControl f r s = .refused (.unreachableControl f r)

/-- The first selector placed for the next edge runs: the way a program's micro-op is presented to the machine (log 8). -/
def Obligations.PlacedSelectorRuns : Prop :=
  ∀ (s : State) (w : Nat), w < 512 →
    ∃ i t, decodeTableWord 16 w = some i ∧ decodeCS (s.withFetchWord 16 w).selector.bits = i ∧
      step (s.withFetchWord 16 w) = .next t

/-! ## Reset and the output ports -/

/-- 70_reset_and_hazards.md R161: after reset the block is in IDLE, with busy = 0 and done = 0, and waits for start. -/
def Obligations.ResetStateWaitsForStart : Prop :=
  State.reset.fsm = .idle ∧ State.reset.rc = 0 ∧ State.reset.busy = false ∧ State.reset.done = false ∧
  ∀ (script : List Inputs) (n : Nat),
    (∀ j < n, (({ State.reset with script := script } : State).inputsAt j).start = false) →
    ∃ t, runFor n { State.reset with script := script } = .next t ∧ t.fsm = .idle ∧ t.rc = 0 ∧
      t.busy = false ∧ t.done = false

/-- 10_state.md R27, R28 and 30_encoding.md R66: busy, done and the status format, for each control state. -/
def Obligations.StatusOutputs : Prop :=
  ∀ s : State,
    (s.busy = true ↔ s.fsm = .run ∨ s.fsm = .ff) ∧ (s.done = true ↔ s.fsm = .done) ∧
    (s.fsm = .idle → s.status = 0b00#2) ∧ (s.fsm = .run ∨ s.fsm = .ff → s.status = 0b10#2) ∧
    (s.fsm = .done → s.status = 0b01#2) ∧ s.status ≠ 0b11#2

/-- 43_control_operations.md R121: RESET from any state (so also the boot reset of 70_reset_and_hazards.md R163, and the abandoning of a computation of R164): fsm = IDLE and rc = 0, whatever start is; busy and done are 0 after
the edge and done stays 0 for as long as no start follows. X, S and K are left without a promise. -/
def Obligations.ResetMicroOp : Prop :=
  ∀ s : State,
    (∃ t, exec .reset s = .next t ∧ t.fsm = .idle ∧ t.rc = 0 ∧ t.script = s.script ∧ t.cycle = s.cycle) ∧
    (s.pins.rst = true →
      ∃ t, step s = .next t ∧ t.fsm = .idle ∧ t.rc = 0 ∧ t.busy = false ∧ t.done = false ∧
        ∀ n, (∀ j < n, (t.inputsAt j).start = false) →
          ∃ u, runFor n t = .next u ∧ u.fsm = .idle ∧ u.rc = 0 ∧ u.busy = false ∧ u.done = false)

/-! ## The micro-ops -/

/-- 43_control_operations.md R123: LOAD writes S and X with the words of in_block, K with those of const_block, rc := 0,
fsm := RUN, and nothing else; every edge with rst = 0, start = 1 and fsm IDLE or DONE performs it; done falls. -/
def Obligations.LoadMicroOp : Prop :=
  ∀ s : State, ∃ t, exec .load s = .next t ∧
    (∀ i : Fin 16, t.S[i] = le32 s.pins.inBlock i ∧ t.X[i] = le32 s.pins.inBlock i ∧
      t.K[i] = le32 s.pins.constBlock i) ∧
    t.rc = 0 ∧ t.fsm = .run ∧ t.script = s.script ∧ t.cycle = s.cycle ∧ t.busy = true ∧ t.done = false ∧
    (LoadsNow s → step s = .next t.advance)

/-- 43_control_operations.md R122: IDLE_HOLD changes nothing, and is what an edge in IDLE performs with rst = 0 and
start = 0, whatever the data inputs; busy = 0 and done = 0. -/
def Obligations.IdleHoldMicroOp : Prop :=
  (∀ s : State, exec .idleHold s = .next s) ∧
  ∀ s : State, s.fsm = .idle → s.pins.rst = false → s.pins.start = false →
    step s = .next s.advance ∧ s.advance.X = s.X ∧ s.advance.S = s.S ∧ s.advance.K = s.K ∧
      s.advance.fsm = .idle ∧ s.advance.rc = 0 ∧ s.advance.busy = false ∧ s.advance.done = false

/-- 43_control_operations.md R127 and 20_memory.md R51: DONE_HOLD changes nothing; in DONE, for as long as start = 0 and
rst = 0, done = 1 and out_block = SERIALIZE(X) stays stable. -/
def Obligations.DoneHoldMicroOp : Prop :=
  (∀ s : State, exec .doneHold s = .next s) ∧
  ∀ (s : State) (n : Nat), s.fsm = .done →
    (∀ j < n, (s.inputsAt j).rst = false ∧ (s.inputsAt j).start = false) →
    ∃ t, runFor n s = .next t ∧ t.fsm = .done ∧ t.rc = 20 ∧ t.X = s.X ∧ t.S = s.S ∧ t.K = s.K ∧
      t.done = true ∧ t.busy = false ∧ t.outBlock = serialize s.X

/-- 43_control_operations.md R124: COLROUND, its four lanes each reading the old X and writing its own four words (the
column quadruples of 41_round_schedule.md R90 bound as R92 says), rc + 1, fsm kept; S, K and the inputs unchanged; done
at every edge with rst = 0, fsm = RUN and an even rc (which is 18 at most), start ignored. -/
def Obligations.ColumnRoundMicroOp : Prop :=
  ∀ s : State, s.fsm = .run → s.rc.toNat ≤ 18 → ∃ t, exec .colround s = .next t ∧
    (t.X[4], t.X[8], t.X[12], t.X[0]) = qr s.X[4] s.X[8] s.X[12] s.X[0] ∧
    (t.X[9], t.X[13], t.X[1], t.X[5]) = qr s.X[9] s.X[13] s.X[1] s.X[5] ∧
    (t.X[14], t.X[2], t.X[6], t.X[10]) = qr s.X[14] s.X[2] s.X[6] s.X[10] ∧
    (t.X[3], t.X[7], t.X[11], t.X[15]) = qr s.X[3] s.X[7] s.X[11] s.X[15] ∧
    t.X = colRound s.X ∧ t.rc = s.rc + 1 ∧ t.fsm = s.fsm ∧ t.S = s.S ∧ t.K = s.K ∧
    t.script = s.script ∧ t.cycle = s.cycle ∧
    (s.rc.toNat % 2 = 0 → s.pins.rst = false → step s = .next t.advance)

/-- 43_control_operations.md R125: DIAGROUND, its four lanes each reading the old X and writing its own four words (the
diagonal quadruples of 41_round_schedule.md R91 bound as R92 says), rc + 1, fsm to FF when rc was 19; S, K and the inputs
unchanged; done at every edge with rst = 0, fsm = RUN and an odd rc, start ignored. -/
def Obligations.DiagonalRoundMicroOp : Prop :=
  ∀ s : State, s.fsm = .run → ∃ t, exec .diaground s = .next t ∧
    (t.X[1], t.X[6], t.X[11], t.X[0]) = qr s.X[1] s.X[6] s.X[11] s.X[0] ∧
    (t.X[12], t.X[5], t.X[10], t.X[15]) = qr s.X[12] s.X[5] s.X[10] s.X[15] ∧
    (t.X[2], t.X[7], t.X[8], t.X[13]) = qr s.X[2] s.X[7] s.X[8] s.X[13] ∧
    (t.X[3], t.X[4], t.X[9], t.X[14]) = qr s.X[3] s.X[4] s.X[9] s.X[14] ∧
    t.X = diagRound s.X ∧ t.rc = s.rc + 1 ∧
    (s.rc.toNat = 19 → t.fsm = .ff ∧ t.rc = 20) ∧ (s.rc.toNat ≠ 19 → t.fsm = s.fsm) ∧
    t.S = s.S ∧ t.K = s.K ∧ t.script = s.script ∧ t.cycle = s.cycle ∧
    (s.rc.toNat % 2 = 1 → s.pins.rst = false → step s = .next t.advance)

/-- 43_control_operations.md R126: FEEDFWD, `X[i] <- S[i] + X[i] mod 2^32` for each word on its own, fsm := DONE, rc kept;
S, K and the inputs unchanged; done = 1 and out_block = SERIALIZE(X) after the edge; start ignored. -/
def Obligations.FeedForwardMicroOp : Prop :=
  ∀ s : State, s.rc = 20 → ∃ t, exec .feedfwd s = .next t ∧
    (∀ i : Fin 16, (t.X[i]).toNat = ((s.S[i]).toNat + (s.X[i]).toNat) % 2 ^ 32) ∧
    t.fsm = .done ∧ t.rc = s.rc ∧ t.S = s.S ∧ t.K = s.K ∧ t.script = s.script ∧ t.cycle = s.cycle ∧
    t.done = true ∧ t.busy = false ∧ t.outBlock = serialize t.X ∧
    (s.fsm = .ff → s.pins.rst = false → step s = .next t.advance)

/-! ## The datapath -/

/-- 40_arx_quarter_round.md R80, R81, R82: ADD32 is addition mod 2^32, XOR32 is bit by bit, and bit j of ROTL32(x, n) is
bit (j - n) mod 32 of x for the four amounts. -/
def Obligations.ArxPrimitives : Prop :=
  (∀ a b : Word, (add32 a b).toNat = (a.toNat + b.toNat) % 2 ^ 32 ∧ add32 a b = add32 b a ∧ add32 a 0 = a ∧
    add32 a a = a <<< 1 ∧ ∀ c, add32 (add32 a b) c = add32 a (add32 b c)) ∧
  (∀ (a b : Word) (j : Nat), (xor32 a b).getLsbD j = (a.getLsbD j != b.getLsbD j)) ∧
  (∀ a : Word, xor32 a a = 0 ∧ xor32 a 0 = a) ∧
  (∀ (x : Word) (n j : Nat), n = 16 ∨ n = 12 ∨ n = 8 ∨ n = 7 → j < 32 →
    (rotl32 x n).getLsbD j = x.getLsbD ((j + 32 - n) % 32))

/-- 40_arx_quarter_round.md R83, R84: the eight chained steps of QR, with the rotations 16, 12, 8 and 7 in that order. -/
def Obligations.QuarterRoundSteps : Prop :=
  (∀ a b c d a1 d1 c1 b1 a2 d2 c2 b2 : Word,
    a1 = add32 a b → d1 = rotl32 (xor32 d a1) 16 → c1 = add32 c d1 → b1 = rotl32 (xor32 b c1) 12 →
    a2 = add32 a1 b1 → d2 = rotl32 (xor32 d1 a2) 8 → c2 = add32 c1 d2 → b2 = rotl32 (xor32 b1 c2) 7 →
    qr a b c d = (a2, b2, c2, d2)) ∧
  qr 0 0 0 0 = (0, 0, 0, 0)

/-- 40_arx_quarter_round.md R85: QR is a bijection on 4-tuples of words. -/
def Obligations.QuarterRoundIsBijective : Prop :=
  Function.Bijective fun v : Word × Word × Word × Word => qr v.1 v.2.1 v.2.2.1 v.2.2.2

/-- 41_round_schedule.md R92: a quadruple of distinct indices reads and writes its own four words, idx0 to a, idx1 to b,
idx2 to c, idx3 to d, and leaves every other word as it is. -/
def Obligations.QuadrupleBinding : Prop :=
  ∀ (V : Words) (q : Quad), [q.idx0, q.idx1, q.idx2, q.idx3].Nodup →
    ((applyQ V q)[q.idx0], (applyQ V q)[q.idx1], (applyQ V q)[q.idx2], (applyQ V q)[q.idx3]) =
      qr V[q.idx0] V[q.idx1] V[q.idx2] V[q.idx3] ∧
    ∀ i : Fin 16, i ∉ [q.idx0, q.idx1, q.idx2, q.idx3] → (applyQ V q)[i] = V[i]

/-- 41_round_schedule.md R90, R91, R95: the two tables; within each table the index sets are pairwise disjoint and cover all 16 words, and the four
applications may be performed in any order with the same result, each word being its lane's result from the old vector. -/
def Obligations.LanesAreIndependent : Prop :=
  colQ = [⟨4, 8, 12, 0⟩, ⟨9, 13, 1, 5⟩, ⟨14, 2, 6, 10⟩, ⟨3, 7, 11, 15⟩] ∧
  diagQ = [⟨1, 6, 11, 0⟩, ⟨12, 5, 10, 15⟩, ⟨2, 7, 8, 13⟩, ⟨3, 4, 9, 14⟩] ∧
  (colQ.flatMap fun q => [q.idx0, q.idx1, q.idx2, q.idx3]).Perm (List.finRange 16) ∧
  (diagQ.flatMap fun q => [q.idx0, q.idx1, q.idx2, q.idx3]).Perm (List.finRange 16) ∧
  (∀ (qs : List Quad) (V : Words),
    (qs.Perm colQ → applyAll qs V = colRound V) ∧ (qs.Perm diagQ → applyAll qs V = diagRound V)) ∧
  (∀ (q : Quad) (V : Words),
    (q ∈ colQ → ((colRound V)[q.idx0], (colRound V)[q.idx1], (colRound V)[q.idx2], (colRound V)[q.idx3]) =
      qr V[q.idx0] V[q.idx1] V[q.idx2] V[q.idx3]) ∧
    (q ∈ diagQ → ((diagRound V)[q.idx0], (diagRound V)[q.idx1], (diagRound V)[q.idx2], (diagRound V)[q.idx3]) =
      qr V[q.idx0] V[q.idx1] V[q.idx2] V[q.idx3]))

/-- 41_round_schedule.md R96, R97, R98, R99: the 20-round permutation is ten double rounds, each a column round and then a
diagonal round; round r is a column round exactly when r is even; 20 rounds of 4 quarter-rounds are 80. -/
def Obligations.PermutationIsTenDoubleRounds : Prop :=
  (∀ V : Words, doubleRound V = diagRound (colRound V)) ∧
  (∀ V : Words, permute20 V = doubleRound^[nDoubleRounds] V) ∧ nDoubleRounds = 10 ∧
  colQ.length = qrPerRound ∧ diagQ.length = qrPerRound ∧ nRounds * qrPerRound = 80 ∧
  (∀ (r : Nat) (V : Words), rounds (r + 1) V = if r % 2 = 0 then colRound (rounds r V) else diagRound (rounds r V)) ∧
  (∀ V : Words, permute20 V = rounds 20 V)

/-! ## Words, blocks and buses -/

/-- 20_memory.md R42, R43, R54: the little-endian load and store, byte by byte, where the stored bytes go in the output,
and the round trip. -/
def Obligations.LittleEndianWords : Prop :=
  (∀ (blk : Block) (i : Fin 16) (k : Fin 4),
    (le32 blk i).extractLsb' (8 * k.val) 8 = blk[4 * i.val + k.val]) ∧
  (∀ (w : Word) (k : Fin 4), (le32Store w)[k] = w.extractLsb' (8 * k.val) 8) ∧
  (∀ (Y : Words) (i : Fin 16) (k : Fin 4), (serialize Y)[4 * i.val + k.val] = (le32Store Y[i])[k]) ∧
  (∀ b0 b1 b2 b3 : Byte, le32Store (leWord b0 b1 b2 b3) = #v[b0, b1, b2, b3]) ∧
  (∀ w : Word, leWord (le32Store w)[0] (le32Store w)[1] (le32Store w)[2] (le32Store w)[3] = w)

/-- 30_encoding.md R61, R62: the packing of a block on the 512-bit bus, byte by byte and word by word, both ways. -/
def Obligations.BlockBusFormat : Prop :=
  (∀ (blk : Block) (k : Fin 64), (toBus blk).extractLsb' (8 * k.val) 8 = blk[k]) ∧
  (∀ (blk : Block) (i : Fin 16), busWord (toBus blk) i = le32 blk i) ∧
  (∀ (Y : Words) (i : Fin 16), busWord (toBus (serialize Y)) i = Y[i]) ∧
  (∀ blk : Block, (toBus blk).toNat = leNat blk.toList) ∧
  (∀ blk : Block, ofBus (toBus blk) = blk) ∧ (∀ bus : BitVec 512, toBus (ofBus bus) = bus)

/-- 42_feedforward_serialize.md R110, R113: DESERIALIZE and SERIALIZE, word by word and byte by byte, are inverse. -/
def Obligations.SerializeInvertsDeserialize : Prop :=
  (∀ (blk : Block) (i : Fin 16), (deserialize blk)[i] = le32 blk i) ∧
  (∀ (Y : Words) (i : Fin 16) (k : Fin 4), (serialize Y)[4 * i.val + k.val] = (Y[i]).extractLsb' (8 * k.val) 8) ∧
  (∀ blk : Block, serialize (deserialize blk) = blk) ∧ (∀ Y : Words, deserialize (serialize Y) = Y)

/-- 42_feedforward_serialize.md R112, R114: the block function is SERIALIZE of the input words plus their 20-round mix,
word by word mod 2^32; and SalsaCore(ZERO, any) = ZERO. -/
def Obligations.BlockFunction : Prop :=
  (∀ S W : Words, ∀ i : Fin 16, ((accumulate S W)[i]).toNat = ((S[i]).toNat + (W[i]).toNat) % 2 ^ 32) ∧
  (∀ a c : Block, salsaCore a c = serialize (accumulate (deserialize a) (permute20 (deserialize a)))) ∧
  (∀ c : Block, salsaCore (Vector.replicate 64 0) c = Vector.replicate 64 0)

/-! ## Invariants and whole-machine rules -/

/-- Every state's control pair is one of 10_state.md R34's, and every edge completes in a state with such a pair: what the
micro-ops write is never refused (43_control_operations.md R120: the step is total on every reachable state). -/
def Obligations.ReachableControlIsKept : Prop :=
  ∀ s : State, ControlOk s ∧ ∃ t, step s = .next t ∧ ControlOk t

/-- 10_state.md R34: from the state after reset exactly the listed (fsm, rc) pairs are reached, over all input sequences. -/
def Obligations.ReachablePairsExactly : Prop :=
  ∀ (f : Fsm) (r : BitVec 5),
    (∃ (script : List Inputs) (n : Nat) (t : State),
        runFor n { State.reset with script := script } = .next t ∧ t.fsm = f ∧ t.rc = r) ↔
      ((f = .idle ∧ r = 0) ∨ (f = .run ∧ r.toNat ≤ 19) ∨ (f = .ff ∧ r = 20) ∨ (f = .done ∧ r = 20))

/-- The invariant of the data: X is always the right number of rounds of S, and the accumulated result when done. Every
edge keeps it (43_control_operations.md R123 to R127 and R129). -/
def Obligations.DataInvariantIsKept : Prop :=
  ∀ s t : State, DataOk s → step s = .next t → DataOk t

/-- The invariant holds at reset (10_state.md R32). -/
def Obligations.InvariantHoldsAtReset : Prop := DataOk State.reset

/-- 43_control_operations.md R129: a computation whose LOAD is at this edge, with no reset in the next 21 cycles, whatever
start and the data inputs do: the round states, FF, DONE, busy and done in each cycle, and SalsaCore on out_block after
22 edges. -/
def Obligations.CompletionAfterTwentyTwoEdges : Prop :=
  ∀ s : State, LoadsNow s → NoResetAfter s 21 →
    (∀ r, r ≤ 19 → ∃ u, runFor (r + 1) s = .next u ∧ u.fsm = .run ∧ u.rc.toNat = r ∧
      u.X = rounds r (deserialize s.pins.inBlock) ∧ u.busy = true ∧ u.done = false) ∧
    (∃ u, runFor 21 s = .next u ∧ u.fsm = .ff ∧ u.rc = 20 ∧ u.X = permute20 (deserialize s.pins.inBlock) ∧
      u.busy = true ∧ u.done = false) ∧
    (∃ u, runFor 22 s = .next u ∧ u.fsm = .done ∧ u.rc = 20 ∧
      u.X = accumulate (deserialize s.pins.inBlock) (permute20 (deserialize s.pins.inBlock)) ∧
      u.done = true ∧ u.busy = false ∧ u.outBlock = salsaCore s.pins.inBlock s.pins.constBlock)

/-- 43_control_operations.md R130 and 20_memory.md R51: done = 1 only at the end of a computation that was loaded, not
reset since and not replaced since, and out_block is then SalsaCore of the bytes at that LOAD edge. -/
def Obligations.DonePresentsTheLastLoad : Prop :=
  ∀ (s : State) (n : Nat) (t : State), s.fsm = .idle → runFor n s = .next t → t.done = true →
    ∃ m u, m + latency ≤ n ∧ runFor m s = .next u ∧ LoadsNow u ∧ NoResetAfter u (n - m - 1) ∧
      (∀ j, latency ≤ j → j < n - m → (u.inputsAt j).start = false) ∧
      t.outBlock = salsaCore u.pins.inBlock u.pins.constBlock

/-- 70_reset_and_hazards.md R169: with start held high, LOAD happens at edges t, t+22, t+44, and so on, done = 1 exactly
in cycles t+22, t+44, and so on, and each result is that of the LOAD 22 edges earlier. -/
def Obligations.StartHeldHighRunsBackToBack : Prop :=
  ∀ (s : State) (n : Nat), LoadsNow s → (∀ j ≤ n, (s.inputsAt j).rst = false ∧ (s.inputsAt j).start = true) →
    ∃ u, runFor n s = .next u ∧ (LoadsNow u ↔ n % 22 = 0) ∧
      (0 < n → (u.done = true ↔ n % 22 = 0)) ∧
      (0 < n → n % 22 = 0 →
        u.outBlock = salsaCore (s.inputsAt (n - 22)).inBlock (s.inputsAt (n - 22)).constBlock)

/-- 43_control_operations.md R128: a start while busy is ignored: the edge is the same with start = 1 as with start = 0. -/
def Obligations.StartWhileBusyIsIgnored : Prop :=
  ∀ (s : State) (p : Inputs) (rest : List Inputs), s.busy = true →
    step { s with script := { p with start := true } :: rest } =
      step { s with script := { p with start := false } :: rest }

/-- 20_memory.md R50: the data inputs of a cycle whose edge performs no LOAD have no effect on anything. -/
def Obligations.DataInputsMatterOnlyAtLoad : Prop :=
  ∀ (s : State) (p : Inputs) (rest : List Inputs) (a b : Block),
    ¬(p.rst = false ∧ p.start = true ∧ (s.fsm = .idle ∨ s.fsm = .done)) →
    step { s with script := { p with inBlock := a, constBlock := b } :: rest } =
      step { s with script := p :: rest }

/-- 10_state.md R22, R23: S and K are written by LOAD alone; every edge that performs neither LOAD nor RESET (after which
they are unspecified) leaves them as they are, and only the rounds and FEEDFWD write X besides (R21). -/
def Obligations.SnapshotIsImmutable : Prop :=
  ∀ s t : State, step s = .next t → s.pins.rst = false → ¬LoadsNow s →
    t.S = s.S ∧ t.K = s.K ∧ (s.busy = false → t.X = s.X)

/-- 10_state.md R23, R31 and 42_feedforward_serialize.md R115: the constants are never observed. Two machines that differ
only in K and in the constants blocks they are given stay so at every edge, and show the same busy, done and, while
done = 1, the same out_block. -/
def Obligations.ConstantsAreNeverObserved : Prop :=
  ∀ s t : State, SameButConstants s t →
    ∃ s' t', step s = .next s' ∧ step t = .next t' ∧ SameButConstants s' t' ∧
      s'.busy = t'.busy ∧ s'.done = t'.done ∧ (s'.done = true → s'.outBlock = t'.outBlock)

/-- 42_feedforward_serialize.md R115, R116: two computations with equal input blocks at their LOAD edges give the same
out_block, whatever state they start from, whatever the constants, and whatever start and data do in between. -/
def Obligations.EqualInputsGiveEqualOutputs : Prop :=
  ∀ s t : State, LoadsNow s → LoadsNow t → NoResetAfter s 21 → NoResetAfter t 21 →
    s.pins.inBlock = t.pins.inBlock →
    (∃ s' t', runFor 22 s = .next s' ∧ runFor 22 t = .next t' ∧ s'.done = true ∧ t'.done = true ∧
      s'.outBlock = t'.outBlock) ∧
    ∀ c1 c2 : Block, salsaCore s.pins.inBlock c1 = salsaCore t.pins.inBlock c2

/-! ## Stimulus scripts -/

/-- 30_encoding.md R73: the 1026-bit stimulus word's fields, that it holds nothing else, and what RST, NOP, GO and HOLD
encode as. -/
def Obligations.StimulusWordFormat : Prop :=
  (∀ i : Inputs, (stimulusWord i).getLsbD 1025 = i.rst ∧ (stimulusWord i).getLsbD 1024 = i.start ∧
    (stimulusWord i).extractLsb' 512 512 = toBus i.constBlock ∧ (stimulusWord i).extractLsb' 0 512 = toBus i.inBlock ∧
    ofStimulusWord (stimulusWord i) = i) ∧
  (∀ w : BitVec 1026, stimulusWord (ofStimulusWord w) = w) ∧
  (∀ t : Nat, (inputsOf t .rst).rst = true ∧ (inputsOf t .rst).start = false ∧
    (inputsOf t .nop).rst = false ∧ (inputsOf t .nop).start = false) ∧
  (∀ (t : Nat) (a b : Blk),
    inputsOf t (.go a b) = { rst := false, start := true, inBlock := blockOf a, constBlock := blockOf b } ∧
    inputsOf t (.hold a b) = { rst := false, start := false, inBlock := blockOf a, constBlock := blockOf b })

/-- 30_encoding.md R71: the named blocks, byte by byte, and a block given as 128 hex digits, byte 0 the leftmost pair. -/
def Obligations.NamedBlocks : Prop :=
  (∀ k : Fin 64, (blockOf .zero)[k] = 0 ∧ (blockOf .ones)[k] = 0xff ∧
    ((blockOf .seq0)[k]).toNat = k.val ∧ ((blockOf .seq1)[k]).toNat = k.val + 1 ∧
    ((blockOf .seq1_16)[k]).toNat = if k.val < 16 then k.val + 1 else 0) ∧
  (∀ i : Fin 16, (le32 (blockOf .wseq1) i).toNat = i.val + 1) ∧
  (∀ (d : BitVec 512) (k : Fin 64), ((blockOf (.hex128 d))[k]).toNat = d.toNat / 256 ^ (63 - k.val) % 256)

/-- 30_encoding.md R72: `RUN a, b` is `GO a, b` and 21 NOP, one full computation; done = 1 in the cycle after the last NOP,
with SalsaCore of the two blocks on out_block; `WAIT n` is n NOP; `RESET` is RST. -/
def Obligations.PseudoOperations : Prop :=
  (∀ a b : Blk, expand (.run a b) = .go a b :: List.replicate 21 .nop) ∧
  (∀ n : Nat, expand (.wait n) = List.replicate n .nop) ∧ expand .reset = [.rst] ∧
  ∀ (s : State) (a b : Blk) (rest : List Inputs), s.fsm = .idle ∨ s.fsm = .done →
    s.script = scriptOf s.cycle [⟨none, .run a b, none⟩] ++ rest →
    ∃ u, runFor 22 s = .next u ∧ u.done = true ∧ u.script = rest ∧
      u.outBlock = salsaCore (blockOf a) (blockOf b)

/-! ## Meanings where CS does not select them -/

/-- Where CS does not select it, a micro-op whose write of fsm and rc would leave 10_state.md R34's pairs is refused by name
(log 12). No step comes here, by `Obligations.StepRunsTheSelectedMicroOp`. -/
def Obligations.UnselectedMicroOpIsRefused : Prop :=
  ∀ s : State,
    (¬(s.fsm = .run ∧ s.rc.toNat ≤ 18) → exec .colround s = .refused (.unreachableControl s.fsm (s.rc + 1))) ∧
    (s.fsm ≠ .run → exec .diaground s = .refused (.unreachableControl s.fsm (s.rc + 1))) ∧
    (s.rc ≠ 20 → exec .feedfwd s = .refused (.unreachableControl .done s.rc))
end

