-- ==== Sys2Proof/Laws/State.lean ====
section
/-! SUPPORT. One lemma per field per update of the state, each true by unfolding, so that no later proof unfolds a record
update; and the control registers as a pair. -/

namespace Sys2Proof.Machine

/-! The control registers (10_state.md R24, R25, R34) -/

@[simp] theorem Control.fsm_idle : Control.idle.fsm = .idle := rfl
@[simp] theorem Control.fsm_run (r : Fin 20) : (Control.run r).fsm = .run := rfl
@[simp] theorem Control.fsm_ff : Control.ff.fsm = .ff := rfl
@[simp] theorem Control.fsm_done : Control.done.fsm = .done := rfl
@[simp] theorem Control.rc_idle : Control.idle.rc = 0 := rfl
@[simp] theorem Control.rc_run_toNat (r : Fin 20) : (Control.run r).rc.toNat = r.val := by
  simp [Control.rc]; omega
@[simp] theorem Control.rc_ff : Control.ff.rc = 20 := rfl
@[simp] theorem Control.rc_done : Control.done.rc = 20 := rfl

/-- The control registers, from the register fsm: in RUN the round is rc (10_state.md R25, R34). -/
theorem control_eq_of_fsm (s : State) :
    (s.fsm = .idle → s.control = .idle) ∧ (s.fsm = .ff → s.control = .ff) ∧ (s.fsm = .done → s.control = .done) ∧
    (s.fsm = .run → ∃ r : Fin 20, s.control = .run r ∧ s.rc.toNat = r.val) := by
  rcases h : s.control with _ | r | _ | _ <;> simp [State.fsm, State.rc, h]

/-- A pair is held by control registers exactly when those registers read as it. -/
theorem ofPair_eq_some_iff (f : Fsm) (r : BitVec 5) (c : Control) :
    Control.ofPair f r = some c ↔ c.fsm = f ∧ c.rc = r := by
  cases c with
  | run k => revert k r; cases f <;> decide +kernel
  | _ => revert r; cases f <;> decide

/-- A pair has control registers exactly when it is one of 10_state.md R34's. -/
theorem ofPair_isSome (f : Fsm) (r : BitVec 5) : (Control.ofPair f r).isSome = controlReachable f r := by
  revert r; cases f <;> decide

@[simp] theorem ofPair_fsm_rc (c : Control) : Control.ofPair c.fsm c.rc = some c :=
  (ofPair_eq_some_iff _ _ _).2 ⟨rfl, rfl⟩

/-- The control registers hold a pair of 10_state.md R34, in every state. -/
@[simp] theorem controlOk (s : State) : ControlOk s := by
  have h := ofPair_isSome s.fsm s.rc
  rw [State.fsm, State.rc, ofPair_fsm_rc] at h
  exact h.symm

/-- Every state's selector is one the model runs (30_encoding.md R69). -/
@[simp] theorem selector_wf (s : State) : s.selector.wf = true := by
  have h := controlOk s
  simp only [Selector.wf, State.selector, Bool.or_eq_true]
  exact .inr h

/-- What a write of the control registers can do: it is held, and nothing else changes, or the pair is unreachable. -/
theorem writeControl_eq_next_iff (f : Fsm) (r : BitVec 5) (s t : State) :
    writeControl f r s = .next t ↔ ∃ c : Control, c.fsm = f ∧ c.rc = r ∧ t = s.withControl c := by
  unfold writeControl
  constructor
  · intro h
    split at h
    · next c hc => cases h; exact ⟨c, ((ofPair_eq_some_iff _ _ _).1 hc).1, ((ofPair_eq_some_iff _ _ _).1 hc).2, rfl⟩
    · cases h
  · rintro ⟨c, hf, hr, rfl⟩
    rw [(ofPair_eq_some_iff _ _ _).2 ⟨hf, hr⟩]

/-- A write of an unreachable pair is refused by name (30_encoding.md R69). -/
theorem writeControl_refused {f : Fsm} {r : BitVec 5} (h : controlReachable f r = false) (s : State) :
    writeControl f r s = .refused (.unreachableControl f r) := by
  have hn : Control.ofPair f r = none := by simpa [← ofPair_isSome] using h
  simp [writeControl, hn]

@[simp] theorem withControl_fsm (s : State) (c : Control) : (s.withControl c).fsm = c.fsm := rfl
@[simp] theorem withControl_control (s : State) (c : Control) : (s.withControl c).control = c := rfl
@[simp] theorem withControl_X (s : State) (c : Control) : (s.withControl c).X = s.X := rfl
@[simp] theorem withControl_S (s : State) (c : Control) : (s.withControl c).S = s.S := rfl
@[simp] theorem withControl_K (s : State) (c : Control) : (s.withControl c).K = s.K := rfl
@[simp] theorem withControl_script (s : State) (c : Control) : (s.withControl c).script = s.script := rfl
@[simp] theorem withControl_cycle (s : State) (c : Control) : (s.withControl c).cycle = s.cycle := rfl
@[simp] theorem withControl_rc (s : State) (c : Control) : (s.withControl c).rc = c.rc := rfl

/-! loseVectors (43_control_operations.md R121) -/

@[simp] theorem loseVectors_X (s : State) : (loseVectors s).X = Config.xAfterReset s.cycle s.X := rfl
@[simp] theorem loseVectors_S (s : State) : (loseVectors s).S = Config.sAfterReset s.cycle s.S := rfl
@[simp] theorem loseVectors_K (s : State) : (loseVectors s).K = Config.kAfterReset s.cycle s.K := rfl
@[simp] theorem loseVectors_control (s : State) : (loseVectors s).control = s.control := rfl
@[simp] theorem loseVectors_script (s : State) : (loseVectors s).script = s.script := rfl
@[simp] theorem loseVectors_cycle (s : State) : (loseVectors s).cycle = s.cycle := rfl

/-! loadVectors (43_control_operations.md R123) -/

@[simp] theorem loadVectors_X (W C : Words) (s : State) : (loadVectors W C s).X = W := rfl
@[simp] theorem loadVectors_S (W C : Words) (s : State) : (loadVectors W C s).S = W := rfl
@[simp] theorem loadVectors_K (W C : Words) (s : State) : (loadVectors W C s).K = C := rfl
@[simp] theorem loadVectors_control (W C : Words) (s : State) : (loadVectors W C s).control = s.control := rfl
@[simp] theorem loadVectors_script (W C : Words) (s : State) : (loadVectors W C s).script = s.script := rfl
@[simp] theorem loadVectors_cycle (W C : Words) (s : State) : (loadVectors W C s).cycle = s.cycle := rfl

/-! applyRound (43_control_operations.md R124, R125) -/

@[simp] theorem applyRound_X (f : Words → Words) (s : State) : (applyRound f s).X = f s.X := rfl
@[simp] theorem applyRound_S (f : Words → Words) (s : State) : (applyRound f s).S = s.S := rfl
@[simp] theorem applyRound_K (f : Words → Words) (s : State) : (applyRound f s).K = s.K := rfl
@[simp] theorem applyRound_control (f : Words → Words) (s : State) : (applyRound f s).control = s.control := rfl
@[simp] theorem applyRound_script (f : Words → Words) (s : State) : (applyRound f s).script = s.script := rfl
@[simp] theorem applyRound_cycle (f : Words → Words) (s : State) : (applyRound f s).cycle = s.cycle := rfl

/-! feedForward (43_control_operations.md R126) -/

@[simp] theorem feedForward_X (s : State) : (feedForward s).X = accumulate s.S s.X := rfl
@[simp] theorem feedForward_S (s : State) : (feedForward s).S = s.S := rfl
@[simp] theorem feedForward_K (s : State) : (feedForward s).K = s.K := rfl
@[simp] theorem feedForward_control (s : State) : (feedForward s).control = s.control := rfl
@[simp] theorem feedForward_script (s : State) : (feedForward s).script = s.script := rfl
@[simp] theorem feedForward_cycle (s : State) : (feedForward s).cycle = s.cycle := rfl

/-! advance (00_scope.md R14) -/

@[simp] theorem advance_X (s : State) : s.advance.X = s.X := rfl
@[simp] theorem advance_S (s : State) : s.advance.S = s.S := rfl
@[simp] theorem advance_K (s : State) : s.advance.K = s.K := rfl
@[simp] theorem advance_control (s : State) : s.advance.control = s.control := rfl
@[simp] theorem advance_fsm (s : State) : s.advance.fsm = s.fsm := rfl
@[simp] theorem advance_rc (s : State) : s.advance.rc = s.rc := rfl
@[simp] theorem advance_script (s : State) : s.advance.script = s.script.tail := rfl
@[simp] theorem advance_cycle (s : State) : s.advance.cycle = s.cycle + 1 := rfl

/-! the control selector (30_encoding.md R64) -/

@[simp] theorem selector_rst (s : State) : s.selector.rst = s.pins.rst := rfl
@[simp] theorem selector_start (s : State) : s.selector.start = s.pins.start := rfl
@[simp] theorem selector_fsm (s : State) : s.selector.fsm = s.fsm := rfl
@[simp] theorem selector_rc (s : State) : s.selector.rc = s.rc := rfl

/-! placeSelector (log 8) -/

@[simp] theorem placeSelector_X (s : State) (cs : BitVec 9) : (s.placeSelector cs).X = s.X := rfl
@[simp] theorem placeSelector_S (s : State) (cs : BitVec 9) : (s.placeSelector cs).S = s.S := rfl
@[simp] theorem placeSelector_K (s : State) (cs : BitVec 9) : (s.placeSelector cs).K = s.K := rfl
@[simp] theorem placeSelector_cycle (s : State) (cs : BitVec 9) : (s.placeSelector cs).cycle = s.cycle := rfl
@[simp] theorem placeSelector_control (s : State) (cs : BitVec 9) :
    (s.placeSelector cs).control = controlOf (selectorOfBits cs) := rfl

end Sys2Proof.Machine
end

