-- ==== Sys2Proof/Laws/Ops.lean ====
section
/-! SUPPORT. What the shared operations can do, said once: the inputs of later cycles, the selection of a micro-op, the
end of a cycle, one edge and a number of edges. -/

namespace Sys2Proof.Machine

/-- The next cycle's inputs are those the state already holds for it (log 1). -/
@[simp] theorem inputsAt_advance (s : State) (j : Nat) : s.advance.inputsAt j = s.inputsAt (j + 1) := by
  cases h : s.script with
  | nil => simp [State.inputsAt, h]; congr 1; omega
  | cons p ps => simp [State.inputsAt, h]; congr 2; omega

/-- The pins of the next cycle. -/
theorem pins_advance (s : State) : s.advance.pins = s.inputsAt 1 := inputsAt_advance s 0

/-- The inputs of a cycle are a function of script and cycle alone. -/
theorem inputsAt_congr {s t : State} (hs : t.script = s.script) (hc : t.cycle = s.cycle) (j : Nat) :
    t.inputsAt j = s.inputsAt j := by
  simp [State.inputsAt, hs, hc]

/-- The pins, when the script lists this cycle. -/
@[simp] theorem pins_of_script (s : State) (p : Inputs) (ps : List Inputs) :
    ({ s with script := p :: ps } : State).pins = p := rfl

/-- In every state the decoded micro-op is selected: no state's selector is refused (30_encoding.md R67, R69). -/
@[simp] theorem fetch_eq_ok (s : State) : fetch s = .ok (decodeCS s.selector.bits) := by
  simp [fetch, selectMicroOp]

/-- The end of a cycle answers a next state exactly when the micro-op did. -/
theorem retire_eq_next_iff (o : Host.Outcome State Fault Refusal) (t : State) :
    retire o = .next t ↔ ∃ u, o = .next u ∧ t = u.advance := by
  cases o <;> simp [retire, eq_comm]

/-! The effect of each micro-op where its control pair admits it, as one equation each (43_control_operations.md R121 to
R127). -/

theorem exec_reset (s : State) : exec .reset s = .next ((loseVectors s).withControl .idle) := rfl

theorem exec_load (s : State) :
    exec .load s = .next ((loadVectors s.loadWords s.loadConstants s).withControl (.run 0)) := rfl

theorem exec_colround {s : State} {r : Fin 20} (h : s.control = .run r) (hr : r.val < 19) :
    exec .colround s = .next ((applyRound colRound s).withControl (.run ⟨r.val + 1, by omega⟩)) :=
  (writeControl_eq_next_iff _ _ _ _).2 ⟨_, by simp [State.fsm, h, Control.fsm],
    by apply BitVec.eq_of_toNat_eq; simp [State.rc, h, Control.rc], rfl⟩

theorem exec_diaground {s : State} {r : Fin 20} (h : s.control = .run r) (hr : r.val < 19) :
    exec .diaground s = .next ((applyRound diagRound s).withControl (.run ⟨r.val + 1, by omega⟩)) := by
  have hne : s.rc ≠ 19#5 := by
    intro e
    have := congrArg BitVec.toNat e
    simp [State.rc, h, Control.rc] at this
    omega
  exact (writeControl_eq_next_iff _ _ _ _).2 ⟨_, by simp [fsmAfterDiagonal, hne, State.fsm, h, Control.fsm],
    by apply BitVec.eq_of_toNat_eq; simp [State.rc, h, Control.rc], rfl⟩

theorem exec_diaground_last {s : State} (h : s.control = .run 19) :
    exec .diaground s = .next ((applyRound diagRound s).withControl .ff) :=
  (writeControl_eq_next_iff _ _ _ _).2
    ⟨.ff, by simp [fsmAfterDiagonal, State.rc, h, Control.rc, Control.fsm], by simp [State.rc, h, Control.rc], rfl⟩

theorem exec_feedfwd {s : State} (h : s.control = .ff) :
    exec .feedfwd s = .next ((feedForward s).withControl .done) :=
  (writeControl_eq_next_iff _ _ _ _).2 ⟨.done, rfl, by simp [State.rc, h, Control.rc], rfl⟩

/-- No micro-op touches the pins or the cycle (20_memory.md R48). -/
theorem exec_keeps_inputs {i : Instr} {s u : State} (h : exec i s = .next u) :
    u.script = s.script ∧ u.cycle = s.cycle := by
  cases i <;>
    simp only [exec, execReset, execLoad, execIdleHold, execDoneHold, execColround, execDiaground, execFeedfwd,
      writeControl_eq_next_iff, Host.Outcome.next.injEq] at h
  case idleHold | doneHold => simp [h]
  all_goals
    obtain ⟨c, -, -, rfl⟩ := h
    simp

/-- What one edge can do: it performs the selected micro-op and begins the next cycle. -/
theorem step_eq_next_iff (s t : State) :
    step s = .next t ↔ ∃ u, exec (decodeCS s.selector.bits) s = .next u ∧ t = u.advance := by
  simp [step, retire_eq_next_iff]

/-- An edge, with the selected micro-op's effect given. -/
theorem step_of_exec {s u : State} (h : exec (decodeCS s.selector.bits) s = .next u) :
    step s = .next u.advance :=
  (step_eq_next_iff s _).2 ⟨u, h, rfl⟩

/-- The inputs after an edge are the ones listed for the next cycles. -/
theorem inputsAt_step {s t : State} (h : step s = .next t) (j : Nat) : t.inputsAt j = s.inputsAt (j + 1) := by
  obtain ⟨u, hu, rfl⟩ := (step_eq_next_iff s t).1 h
  obtain ⟨hs, hc⟩ := exec_keeps_inputs hu
  rw [inputsAt_advance, inputsAt_congr hs hc]

/-- No edges. -/
@[simp] theorem runFor_zero (s : State) : runFor 0 s = .next s := rfl

/-- One edge and then the others. -/
theorem runFor_succ_of_step {s t : State} (h : step s = .next t) (k : Nat) : runFor (k + 1) s = runFor k t := by
  simp [runFor, h]

/-- What a run of one edge more comes from. -/
theorem runFor_succ_eq_next_iff (k : Nat) (s t : State) :
    runFor (k + 1) s = .next t ↔ ∃ u, step s = .next u ∧ runFor k u = .next t := by
  cases h : step s <;> simp [runFor, h]

/-- A run cut in two. -/
theorem runFor_add (j k : Nat) (s t : State) :
    runFor (j + k) s = .next t ↔ ∃ u, runFor j s = .next u ∧ runFor k u = .next t := by
  induction j generalizing s with
  | zero => simp
  | succ j ih =>
    rw [Nat.add_right_comm, runFor_succ_eq_next_iff]
    simp only [ih, runFor_succ_eq_next_iff]
    constructor
    · rintro ⟨v, hv, u, hu, ht⟩; exact ⟨u, ⟨v, hv, hu⟩, ht⟩
    · rintro ⟨u, ⟨v, hv, hu⟩, ht⟩; exact ⟨v, hv, u, hu, ht⟩

/-- The last edge of a run. -/
theorem runFor_snoc_eq_next_iff (k : Nat) (s t : State) :
    runFor (k + 1) s = .next t ↔ ∃ u, runFor k s = .next u ∧ step u = .next t := by
  rw [runFor_add]
  constructor <;> rintro ⟨u, hu, h⟩ <;> refine ⟨u, hu, ?_⟩
  · cases hs : step u <;> simp_all [runFor]
  · simp [runFor, h]

/-- The inputs after k edges. -/
theorem inputsAt_runFor {k : Nat} {s t : State} (h : runFor k s = .next t) (j : Nat) :
    t.inputsAt j = s.inputsAt (k + j) := by
  induction k generalizing s with
  | zero => cases h; simp
  | succ k ih =>
    obtain ⟨u, hu, ht⟩ := (runFor_succ_eq_next_iff k s t).1 h
    rw [ih ht, inputsAt_step hu]
    congr 1
    omega

/-- A property every edge keeps holds all along a run. -/
theorem runFor_keeps {P : State → Prop} (hP : ∀ s t, P s → step s = .next t → P t) {k : Nat} {s t : State}
    (hs : P s) (h : runFor k s = .next t) : P t := by
  induction k generalizing s with
  | zero => cases h; exact hs
  | succ k ih =>
    obtain ⟨u, hu, ht⟩ := (runFor_succ_eq_next_iff k s t).1 h
    exact ih (hP s u hs hu) ht

/-- `runFor` is the host's `run` of this machine. -/
theorem runFor_eq_core_run (k : Nat) (s : State) : runFor k s = Host.Core.run Sys2Proof.core k s := by
  induction k generalizing s with
  | zero => rfl
  | succ k ih =>
    show (match step s with
      | .next s' => runFor k s' | .fault r => .fault r | .refused r => .refused r) = _
    simp only [Host.Core.run, Sys2Proof.core]
    cases step s <;> simp [ih]
    rfl

end Sys2Proof.Machine
end

