-- ==== Sys2Proof/Laws/PerInstr.lean ====
section
/-! SUPPORT. Statements made per constructor of Instr. Family `Encoding`: every CS value of the row decodes to the
instruction, and the row constrains no bit outside its mask (30_encoding.md R67). -/

namespace Sys2Proof.Laws

/-- Whatever the row's pattern letters, the encoded CS value lies in the row and decodes to the instruction. -/
def Encoding.Statement (i : Instr) : Prop :=
  i.pattern &&& ~~~i.mask = 0 ∧
    ∀ free : BitVec 9, i.admits (encodeCS i free) = true ∧ decodeCS (encodeCS i free) = i

theorem Encoding.reset : Encoding.Statement .reset := by unfold Encoding.Statement; decide +kernel
theorem Encoding.load : Encoding.Statement .load := by unfold Encoding.Statement; decide +kernel
theorem Encoding.idleHold : Encoding.Statement .idleHold := by unfold Encoding.Statement; decide +kernel
theorem Encoding.doneHold : Encoding.Statement .doneHold := by unfold Encoding.Statement; decide +kernel
theorem Encoding.colround : Encoding.Statement .colround := by unfold Encoding.Statement; decide +kernel
theorem Encoding.diaground : Encoding.Statement .diaground := by unfold Encoding.Statement; decide +kernel
theorem Encoding.feedfwd : Encoding.Statement .feedfwd := by unfold Encoding.Statement; decide +kernel

end Sys2Proof.Laws
end

