-- ==== Sys2Proof/Laws/Ports.lean ====
section
/-! SUPPORT. The port functions, word by word and byte by byte. -/

namespace Sys2Proof.Machine

/-- Byte k of the little-endian store of w is w[8k+7:8k] (20_memory.md R43). -/
@[simp] theorem le32Store_getElem (w : Word) (k : Nat) (h : k < 4) : (le32Store w)[k] = w.extractLsb' (8 * k) 8 := by
  simp [le32Store]

/-- Word i of a loaded block (42_feedforward_serialize.md R110). -/
@[simp] theorem deserialize_getElem (blk : Block) (i : Nat) (h : i < 16) :
    (deserialize blk)[i] = le32 blk ⟨i, h⟩ := by
  simp [deserialize]

/-- Byte j of a serialized vector is byte j mod 4 of word j / 4 (42_feedforward_serialize.md R113). -/
@[simp] theorem serialize_getElem (Y : Words) (j : Nat) (h : j < 64) :
    (serialize Y)[j] = (Y[j / 4]'(by omega)).extractLsb' (8 * (j % 4)) 8 := by
  simp [serialize]

/-- Byte k of the block a bus carries (30_encoding.md R61). -/
@[simp] theorem ofBus_getElem (bus : BitVec 512) (k : Nat) (h : k < 64) :
    (ofBus bus)[k] = bus.extractLsb' (8 * k) 8 := by
  simp [ofBus]

/-- A word read is the word of a four-byte MemRead (00_scope.md R12). -/
theorem memRead_four (blk : Block) (i : Fin 16) :
    memRead blk (4 * i.val) 4 =
      [blk[4 * i.val], blk[4 * i.val + 1], blk[4 * i.val + 2], blk[4 * i.val + 3]] := by
  apply List.ext_getElem
  · simp [memRead]; omega
  · intro k hk hk'
    simp only [memRead, List.getElem_take, List.getElem_drop, Vector.getElem_toList]
    simp only [List.length_cons, List.length_nil] at hk'
    obtain rfl | rfl | rfl | rfl : k = 0 ∨ k = 1 ∨ k = 2 ∨ k = 3 := by omega
    all_goals rfl

/-- A byte outside the bytes written is as before (00_scope.md R12). -/
theorem memWrite_getElem_outside (out : Block) (a : Nat) (bytes : List Byte) (k : Nat) (h : k < 64)
    (hk : k < a ∨ a + bytes.length ≤ k) : (memWrite out a bytes)[k] = out[k] := by
  simp only [memWrite, Vector.getElem_ofFn, Fin.getElem_fin]
  split
  · rw [List.getD_eq_default _ _ (by omega)]
  · rfl

/-- A byte written is the byte given for it (00_scope.md R12). -/
theorem memWrite_getElem_inside (out : Block) (a : Nat) (bytes : List Byte) (k : Nat) (h : a + k < 64)
    (hk : k < bytes.length) : (memWrite out a bytes)[a + k] = bytes[k] := by
  have hle : a ≤ a + k := Nat.le_add_right a k
  simp only [memWrite, Vector.getElem_ofFn, hle, if_true, Nat.add_sub_cancel_left]
  exact List.getD_eq_getElem _ _ hk

/-- Word i of an accumulated vector (42_feedforward_serialize.md R112). -/
@[simp] theorem accumulate_getElem (S W : Words) (i : Nat) (h : i < 16) :
    (accumulate S W)[i] = add32 S[i] W[i] := by
  simp [accumulate]

/-- One more round (41_round_schedule.md R97). -/
@[simp] theorem rounds_succ (n : Nat) (V : Words) : rounds (n + 1) V = roundAt n (rounds n V) := rfl

/-- No round yet (41_round_schedule.md R97). -/
@[simp] theorem rounds_zero (V : Words) : rounds 0 V = V := rfl

end Sys2Proof.Machine
end

