-- ==== Sys2Proof/Tests/Slice0.lean ====
section
/-! SUPPORT. The model's own tests: the ill-formed selectors, the decoder on words written out from the patterns of
30_encoding.md R67, one edge per micro-op against 95_test_vectors.md, and a witness for the hypotheses of each statement
of Certificates/Slice0/Obligations.lean. Expected values are the spec's. -/

namespace Sys2Proof.Tests

open Sys2Proof.Machine

/-! ## Helpers -/

/-- Inputs with given control bits and data. -/
def pin (rst start : Bool) (a b : Block) : Inputs := { rst := rst, start := start, inBlock := a, constBlock := b }

def zeroBlock : Block := Vector.replicate 64 0

def nop : Inputs := pin false false zeroBlock zeroBlock
def go : Inputs := pin false true (blockOf .seq0) (blockOf .ones)
def rst : Inputs := pin true true zeroBlock zeroBlock

/-- The state after reset with another control pair and a script. -/
def at' (c : Control) (script : List Inputs) : State :=
  { State.reset with control := c, script := script }

/-- The next state, where there is one. -/
def nextOf : Host.Outcome State Fault Refusal → Option State
  | .next t    => some t
  | .fault _   => none
  | .refused _ => none

/-- The words 0 to 15 (V[i] = i) of 95_test_vectors.md, 2.5. -/
def ramp : Words := Vector.ofFn fun i => BitVec.ofNat 32 i.val

/-! ## WellFormed: each check refuses an ill-formed selector -/

theorem test_wf_refuses_idle_with_rc : Selector.wf ⟨false, true, .idle, 1⟩ = false := by decide
theorem test_wf_refuses_run_past_19 : Selector.wf ⟨false, false, .run, 20⟩ = false := by decide
theorem test_wf_refuses_ff_before_20 : Selector.wf ⟨false, false, .ff, 19⟩ = false := by decide
theorem test_wf_refuses_done_past_20 : Selector.wf ⟨false, true, .done, 21⟩ = false := by decide
theorem test_wf_accepts_the_reachable :
    Selector.wf ⟨false, false, .idle, 0⟩ = true ∧ Selector.wf ⟨false, true, .run, 19⟩ = true ∧
    Selector.wf ⟨false, false, .ff, 20⟩ = true ∧ Selector.wf ⟨false, true, .done, 20⟩ = true ∧
    Selector.wf ⟨true, false, .run, 31⟩ = true := by decide

/-! ## Decode: words written out from the patterns of 30_encoding.md R67 (values of 95_test_vectors.md, 2.9) -/

-- 1sffrrrrr with s = 1, ff = 10, rrrrr = 10100: CS 1d4
theorem test_decode_reset : decode [0b11010100#8, 0b1#8] = .ok .reset := by decide
-- 01f0rrrrr with f = 1, rrrrr = 10100: CS 0d4
theorem test_decode_load : decode [0b11010100#8, 0b0#8] = .ok .load := by decide
-- 0000rrrrr with rrrrr = 00000: CS 000
theorem test_decode_idle_hold : decode [0b00000000#8, 0b0#8] = .ok .idleHold := by decide
-- 0010rrrrr with rrrrr = 10100: CS 054
theorem test_decode_done_hold : decode [0b01010100#8, 0b0#8] = .ok .doneHold := by decide
-- 0s01rrrr0 with s = 1, rrrr = 0000: CS 0a0, start ignored
theorem test_decode_colround : decode [0b10100000#8, 0b0#8] = .ok .colround := by decide
-- 0s01rrrr1 with s = 0, rrrr = 1001: CS 033
theorem test_decode_diaground : decode [0b00110011#8, 0b0#8] = .ok .diaground := by decide
-- 0s11rrrrr with s = 1, rrrrr = 10100: CS 0f4
theorem test_decode_feedfwd : decode [0b11110100#8, 0b0#8] = .ok .feedfwd := by decide
theorem test_decode_rejects_stray_bit : decode [0b00000000#8, 0b10#8] = .error .strayBits := by decide
theorem test_decode_rejects_one_byte : decode [0b00000000#8] = .error .wrongLength := by decide
-- the unreachable (RUN, 20) "decodes as COLROUND; refused by the model" (95_test_vectors.md, 2.9)
theorem test_run_20_decodes_and_is_refused :
    decodeCS 0x034#9 = .colround ∧
      selectMicroOp (selectorOfBits 0x034#9) = .error (.unreachableControl .run 20) := ⟨by decide, rfl⟩

/-! ## The control registers hold the pairs of 10_state.md R34 and no other -/

theorem test_control_pairs : [Control.idle, .run 0, .run 19, .ff, .done].map (fun c => (c.fsm, c.rc)) =
    [(.idle, 0), (.run, 0), (.run, 19), (.ff, 20), (.done, 20)] := by decide
theorem test_control_excludes : [(Fsm.idle, 1#5), (.run, 20#5), (.ff, 19#5), (.done, 21#5)].all
    (fun p => (Control.ofPair p.1 p.2).isNone) = true := by decide

/-! ## Datapath vectors -/

-- V-QR-1
theorem test_qr_1 : qr 0x11111111 0x01020304 0x9b8d6f43 0x01234567 =
    (0xea2a92f4, 0xcb1cf8ce, 0x4581472e, 0x5881c4bb) := by decide +kernel
-- V-ADD-2, V-ROT-4, V-XOR-1
theorem test_arx : add32 0xffffffff 1 = 0 ∧ rotl32 0x12345678 7 = 0x1a2b3c09 ∧
    xor32 0x0000ffff 0x00ff00ff = 0x00ffff00 := by decide
-- V-COL-1
theorem test_colRound_1 : colRound ramp =
    #v[0x0c400cc0, 0x13d31731, 0x2d28d3dd, 0x5000c00a, 0xc000400c, 0x13c01730, 0x1a5a11a6, 0xe2e52daa,
       0x26266666, 0x3000c017, 0x1a4011a0, 0x05c50a5b, 0x0c4c0ccc, 0xe9eb9811, 0xa0004011, 0x05c00a50] := by
  decide +kernel
-- V-DIAG-1
theorem test_diagRound_1 : diagRound ramp =
    #v[0x07d00770, 0x7000d007, 0x4000f009, 0x9000d007, 0xecebcccc, 0x877175ff, 0xebebbdbb, 0x7a7ca422,
       0x04f40948, 0x09d90799, 0x1f0e12ea, 0x07d7077b, 0xe000f012, 0x04f00940, 0x09d00790, 0x1ef012e0] := by
  decide +kernel
-- V-LE-2, V-LE-3
theorem test_little_endian : leWord 0xff 0 0 0x80 = 0x800000ff ∧
    le32Store 0x04030201 = #v[0x01, 0x02, 0x03, 0x04] := by decide
-- V-ACC-3: word 0's carry is not added into word 1
theorem test_accumulate_no_carry_between_words :
    let S : Words := (Vector.replicate 16 0 |>.set 0 0x80000000).set 1 1
    let W : Words := (Vector.replicate 16 0 |>.set 0 0x80000000).set 1 0xffffffff
    accumulate S W = Vector.replicate 16 0 := by decide +kernel
-- 30_encoding.md R71: a hex128 string's leftmost pair is byte 0
theorem test_hex128_leftmost_is_byte_0 : (ofHex128 (0x0102#512 <<< 496))[0] = 1 ∧
    (ofHex128 (0x0102#512 <<< 496))[1] = 2 := by decide +kernel

/-! ## One edge per micro-op (95_test_vectors.md, 2.10) -/

-- V-OP-1: (RUN, 4), rst = 1
theorem test_step_reset : (nextOf (step (at' (.run 4) [rst]))).map (fun t => (t.fsm, t.rc, t.status)) =
    some (.idle, 0, 0b00) := by decide
-- V-OP-10: (DONE, 20), rst and start together: reset wins
theorem test_step_reset_wins : (nextOf (step (at' .done [rst]))).map (fun t => (t.fsm, t.rc)) =
    some (.idle, 0) := by decide
-- V-OP-2
theorem test_step_idle_hold : (nextOf (step (at' .idle [nop]))).map (fun t => (t.fsm, t.rc, t.X, t.status)) =
    some (.idle, 0, State.reset.X, 0b00) := by decide +kernel
-- V-OP-3: words 0 and 15 of SEQ0 and of ONES
theorem test_step_load : (nextOf (step (at' .idle [go]))).map
      (fun t => (t.fsm, t.rc, t.X[0], t.S[15], t.K[0], t.status)) =
    some (.run, 0, 0x03020100, 0x3f3e3d3c, 0xffffffff, 0b10) := by decide +kernel
-- V-OP-9: LOAD from DONE
theorem test_step_load_from_done : (nextOf (step (at' .done [go]))).map (fun t => (t.fsm, t.rc, t.status)) =
    some (.run, 0, 0b10) := by decide
-- V-OP-4: COLROUND after LOAD of SEQ0 (V-TRACE-1 round 0, words 0 and 15)
theorem test_step_colround :
    (nextOf (step { at' (.run 0) [nop] with X := deserialize (blockOf .seq0) })).map
      (fun t => (t.fsm, t.rc, t.X[0], t.X[15])) = some (.run, 1, 0x98a3b209, 0x4a5eafe7) := by decide +kernel
-- V-COL-3 through the micro-op, at the last even round with start asserted
theorem test_step_colround_last :
    (nextOf (step { at' (.run 18) [go] with X := (Vector.replicate 16 0).set 0 1 })).map
      (fun t => (t.fsm, t.rc, t.X[0], t.X[4], t.X[8], t.X[12])) =
    some (.run, 19, 0x01000010, 0x10000000, 0x80800808, 0x01010010) := by decide +kernel
-- V-OP-6: the DIAGROUND at rc = 19 moves RUN to FF (words of V-DIAG-2)
theorem test_step_diaground_last :
    (nextOf (step { at' (.run 19) [nop] with X := (Vector.replicate 16 0).set 0 1 })).map
      (fun t => (t.fsm, t.rc, t.X[0], t.X[1], t.X[6], t.X[11])) =
    some (.ff, 20, 0x01000010, 0x10000000, 0x80800808, 0x01010010) := by decide +kernel
theorem test_step_diaground_first :
    (nextOf (step { at' (.run 1) [go] with X := ramp })).map (fun t => (t.fsm, t.rc, t.X[9], t.status)) =
    some (.run, 2, 0x09d90799, 0b10) := by decide +kernel
-- V-OP-7 in small (the wrap of V-ACC-2): FEEDFWD
theorem test_step_feedfwd :
    (nextOf (step { at' .ff [go] with X := Vector.replicate 16 1, S := Vector.replicate 16 0xffffffff })).map
      (fun t => (t.fsm, t.rc, t.X[3], t.outBlock[12], t.status)) = some (.done, 20, 0, 0, 0b01) := by decide +kernel
-- V-OP-8: DONE_HOLD; out_block is SERIALIZE(X)
theorem test_step_done_hold :
    (nextOf (step { at' .done [nop] with X := ramp })).map (fun t => (t.fsm, t.rc, t.outBlock[60])) =
    some (.done, 20, 15) := by decide +kernel

/-! ## The word placed for the next edge -/

theorem test_fetch_word_runs_every_row :
    [0x100, 0x080, 0x000, 0x040, 0x020, 0x021, 0x060].all
      (fun w => (nextOf (step (State.reset.withFetchWord 16 w))).isSome &&
        decodeTableWord 16 w == some (decodeCS (State.reset.withFetchWord 16 w).selector.bits)) = true := by
  decide +kernel

/-! ## Witnesses: a concrete state meets the hypotheses of each statement that has some -/

theorem witness_PriorityOfSimultaneousEvents :
    ∀ p ∈ [(Selector.mk true true .done 20, Control.done), (⟨false, true, .idle, 0⟩, .idle), (⟨false, false, .done, 20⟩, .done),
      (⟨false, true, .run, 18⟩, .run 18), (⟨false, true, .run, 19⟩, .run 19), (⟨false, true, .ff, 20⟩, .ff)],
        (at' p.2 [pin p.1.rst p.1.start zeroBlock zeroBlock]).selector = p.1 := by decide

theorem witness_StatusOutputs : (at' .idle []).fsm = .idle ∧ (at' (.run 19) []).fsm = .run ∧ (at' .ff []).fsm = .ff ∧
    (at' .done []).fsm = .done := by decide

theorem witness_UnreachableControlIsRefused :
    ∀ p ∈ [(Fsm.idle, 1#5), (Fsm.run, 20#5), (Fsm.ff, 19#5), (Fsm.done, 21#5)],
      ¬((p.1 = .idle ∧ p.2 = 0) ∨ (p.1 = .run ∧ p.2.toNat ≤ 19) ∨ (p.1 = .ff ∧ p.2 = 20) ∨
        (p.1 = .done ∧ p.2 = 20)) := by decide

theorem witness_UnselectedMicroOpIsRefused :
    ¬((at' (.run 19) []).fsm = .run ∧ (at' (.run 19) []).rc.toNat ≤ 18) ∧ (at' .done []).fsm ≠ .run ∧
    (at' (.run 19) []).rc ≠ 20 := by decide

theorem witness_PlacedSelectorRuns : 511 < 512 := by decide

theorem witness_ResetStateWaitsForStart :
    ∀ j < 2, (({ State.reset with script := [nop, nop] } : State).inputsAt j).start = false := by decide

theorem witness_ResetMicroOp :
    (at' (.run 19) [rst, nop, nop]).pins.rst = true ∧
      ∃ t, step (at' (.run 19) [rst, nop, nop]) = .next t ∧ ∀ j < 2, (t.inputsAt j).start = false :=
  ⟨by decide, _, rfl, by decide⟩

theorem witness_LoadMicroOp : LoadsNow (at' .idle [go]) ∧ LoadsNow (at' .done [go]) := by decide

theorem witness_IdleHoldMicroOp : (at' .idle [nop]).fsm = .idle ∧
    (at' .idle [nop]).pins.rst = false ∧ (at' .idle [nop]).pins.start = false := by decide

theorem witness_DoneHoldMicroOp : (at' .done [nop, nop]).fsm = .done ∧
    ∀ j < 2, ((at' .done [nop, nop]).inputsAt j).rst = false ∧
      ((at' .done [nop, nop]).inputsAt j).start = false := by decide

theorem witness_ColumnRoundMicroOp : ∀ r ∈ [(0 : Fin 20), 18], (at' (.run r) [go]).fsm = .run ∧
    (at' (.run r) [go]).rc.toNat ≤ 18 ∧ (at' (.run r) [go]).rc.toNat % 2 = 0 ∧ (at' (.run r) [go]).pins.rst = false := by
  decide

theorem witness_DiagonalRoundMicroOp : ∀ r ∈ [(1 : Fin 20), 17, 19], (at' (.run r) [go]).fsm = .run ∧
    (at' (.run r) [go]).rc.toNat % 2 = 1 ∧ (at' (.run r) [go]).pins.rst = false := by decide

theorem witness_FeedForwardMicroOp : (at' .ff [go]).fsm = .ff ∧ (at' .ff [go]).rc = 20 ∧
    (at' .ff [go]).pins.rst = false := by decide

theorem witness_ArxPrimitives : (7 = 16 ∨ 7 = 12 ∨ 7 = 8 ∨ 7 = 7) ∧ 31 < 32 := by decide

-- V-QR-3, step by step
theorem witness_QuarterRoundSteps :
    (0x00000001#32 = add32 1 0) ∧ 0x00010000#32 = rotl32 (xor32 0 0x00000001) 16 ∧
    0x00010000#32 = add32 0 0x00010000 ∧ 0x10000000#32 = rotl32 (xor32 0 0x00010000) 12 ∧
    0x10000001#32 = add32 0x00000001 0x10000000 ∧ 0x01000110#32 = rotl32 (xor32 0x00010000 0x10000001) 8 ∧
    0x01010110#32 = add32 0x00010000 0x01000110 ∧ 0x80808808#32 = rotl32 (xor32 0x10000000 0x01010110) 7 := by
  decide

theorem witness_QuadrupleBinding : [(⟨4, 8, 12, 0⟩ : Quad).idx0, 8, 12, 0].Nodup ∧ (15 : Fin 16) ∉ [4, 8, 12, 0] := by
  decide

theorem witness_LanesAreIndependent : colQ.reverse.Perm colQ ∧ diagQ.reverse.Perm diagQ ∧
    (⟨3, 7, 11, 15⟩ : Quad) ∈ colQ ∧ (⟨3, 4, 9, 14⟩ : Quad) ∈ diagQ := by decide

theorem witness_DataInvariantIsKept :
    DataOk (at' (.run 0) [nop]) ∧ ∃ t, step (at' (.run 0) [nop]) = .next t :=
  ⟨rfl, _, rfl⟩

/-- A LOAD and then `n` cycles without reset. -/
def loading (n : Nat) : State := at' .idle (go :: List.replicate n nop)

theorem witness_CompletionAfterTwentyTwoEdges : LoadsNow (loading 21) ∧ NoResetAfter (loading 21) 21 := by decide

theorem witness_DonePresentsTheLastLoad : (loading 22).fsm = .idle ∧
    ∃ t, runFor 23 (loading 22) = .next t ∧ t.done = true :=
  ⟨rfl, _, rfl, by decide +kernel⟩

-- the clauses at n = 0, 21, 22, 23 and 44: the hypothesis for 44 holds the others' with it
theorem witness_StartHeldHighRunsBackToBack :
    let s := at' .idle (List.replicate 45 go)
    LoadsNow s ∧ ∀ n ∈ [0, 21, 22, 23, 44], ∀ j ≤ n, (s.inputsAt j).rst = false ∧ (s.inputsAt j).start = true := by
  intro s
  have h : ∀ j ≤ 44, s.inputsAt j = go := by
    intro j hj
    rw [State.inputsAt, List.getD_eq_getElem _ _ (by simp [s, at']; omega)]
    exact List.getElem_replicate _
  refine ⟨⟨rfl, rfl, .inl rfl⟩, fun n hn j hj => ?_⟩
  rw [h j (by simp at hn; omega)]
  exact ⟨rfl, rfl⟩

theorem witness_StartWhileBusyIsIgnored : (at' (.run 4) []).busy = true ∧ (at' .ff []).busy = true := by decide

theorem witness_DataInputsMatterOnlyAtLoad :
    ¬(nop.rst = false ∧ nop.start = true ∧ ((at' .done []).fsm = .idle ∨ (at' .done []).fsm = .done)) ∧
    ¬(go.rst = false ∧ go.start = true ∧ ((at' (.run 4) []).fsm = .idle ∨ (at' (.run 4) []).fsm = .done)) := by decide

theorem witness_SnapshotIsImmutable :
    (∃ t, step (at' (.run 4) [go]) = .next t) ∧ (at' (.run 4) [go]).pins.rst = false ∧ ¬LoadsNow (at' (.run 4) [go]) ∧
    (∃ t, step (at' .done [nop]) = .next t) ∧ ¬LoadsNow (at' .done [nop]) ∧ (at' .done [nop]).busy = false :=
  ⟨⟨_, rfl⟩, by decide, by decide, ⟨_, rfl⟩, by decide, by decide⟩

theorem witness_ConstantsAreNeverObserved :
    let s := at' .done [go]
    let t := { at' .done [{ go with constBlock := zeroBlock }] with K := Vector.replicate 16 7 }
    s ≠ t ∧ SameButConstants s t := by
  refine ⟨by decide +kernel, rfl, rfl, fun _ => ⟨rfl, rfl⟩, fun j => ?_⟩
  cases j with
  | zero => exact ⟨rfl, rfl, rfl⟩
  | succ j => exact ⟨rfl, rfl, rfl⟩

theorem witness_EqualInputsGiveEqualOutputs :
    LoadsNow (loading 21) ∧ LoadsNow { loading 21 with control := .done } ∧ NoResetAfter (loading 21) 21 ∧
    NoResetAfter { loading 21 with control := .done } 21 ∧
    (loading 21).pins.inBlock = ({ loading 21 with control := .done } : State).pins.inBlock :=
  ⟨by decide, by decide, by decide, by decide, rfl⟩

theorem witness_PseudoOperations :
    ∃ s : State, (s.fsm = .idle ∨ s.fsm = .done) ∧
      s.script = scriptOf s.cycle [⟨none, .run .seq0 .zero, none⟩] ++ [nop] :=
  ⟨at' .idle (scriptOf 0 [⟨none, .run .seq0 .zero, none⟩] ++ [nop]), .inl rfl, rfl⟩

end Sys2Proof.Tests
end

/-! PROOFS. Family `10_state.md`: the status outputs (R27, R28; 30_encoding.md R66) and the control pairs reached from
reset (10_state.md R34). -/

namespace Sys2Proof.Machine

/-! ## The status outputs, for each control state -/

theorem busy_eq_true_iff (s : State) : s.busy = true ↔ s.fsm = .run ∨ s.fsm = .ff := by
  cases h : s.fsm <;> simp [State.busy, h]

theorem done_eq_true_iff (s : State) : s.done = true ↔ s.fsm = .done := by
  cases h : s.fsm <;> simp [State.done, h]

/-- `{busy, done}` as a function of the control state (30_encoding.md R66). -/
def statusOf : Fsm → BitVec 2
  | .idle => 0b00#2
  | .run  => 0b10#2
  | .done => 0b01#2
  | .ff   => 0b10#2

theorem status_eq_statusOf (s : State) : s.status = statusOf s.fsm := by
  cases h : s.fsm <;> simp [State.status, State.busy, State.done, statusOf, h]

theorem statusOf_ne_both (f : Fsm) : statusOf f ≠ 0b11#2 := by
  cases f <;> decide

/-- Settles O10: the status word and its two bits, by the lemma for each. -/
theorem statusOutputs : Obligations.StatusOutputs := by
  intro s
  refine ⟨busy_eq_true_iff s, done_eq_true_iff s, ?_⟩
  rw [status_eq_statusOf]
  refine ⟨fun h => ?_, fun h => ?_, fun h => ?_, statusOf_ne_both s.fsm⟩
  · rw [h, statusOf]
  · obtain h | h := h <;> rw [h, statusOf]
  · rw [h, statusOf]

/-! ## One edge, by the control pair it starts from -/

/-- The decode table is the `case` of 43_control_operations.md R120. -/
theorem decodeCS_bits (c : Selector) : decodeCS c.bits = caseSelect c := by
  obtain ⟨rst, start, fsm, rc⟩ := c
  revert rc start rst
  cases fsm <;> decide +kernel

/-- An edge performs the micro-op that the `case` selects, when that micro-op answers a next state. -/
theorem step_of_caseSelect {s u : State} {i : Instr} (hi : caseSelect s.selector = i) (hu : exec i s = .next u) :
    step s = .next u.advance :=
  step_of_exec (by rwa [decodeCS_bits, hi])

/-- The LOAD edge (43_control_operations.md R123). -/
theorem step_of_loadsNow {s : State} (h : LoadsNow s) :
    step s = .next ((loadVectors s.loadWords s.loadConstants s).withControl (.run 0)).advance := by
  obtain ⟨hrst, hstart, hfsm⟩ := h
  refine step_of_caseSelect (i := .load) ?_ (exec_load s)
  obtain hfsm | hfsm := hfsm <;> simp [caseSelect, hrst, hstart, hfsm]

/-- The selection in (RUN, r): the parity of r picks the round (43_control_operations.md R120). -/
theorem caseSelect_run {s : State} {r : Fin 20} (h : s.control = .run r) (hrst : s.pins.rst = false) :
    caseSelect s.selector = if r.val % 2 = 0 then .colround else .diaground := by
  have hbit : s.rc[0] = decide (r.val % 2 = 1) := by
    simp [BitVec.getElem_eq_testBit_toNat, State.rc, h]
  obtain hr | hr := Nat.mod_two_eq_zero_or_one r.val <;>
    simp [caseSelect, hrst, State.fsm, h, hbit, hr]

theorem roundAt_of_even {r : Nat} (h : r % 2 = 0) : roundAt r = colRound := by
  funext V; simp [roundAt, h]

theorem roundAt_of_odd {r : Nat} (h : r % 2 = 1) : roundAt r = diagRound := by
  funext V; simp [roundAt, h]

/-- The edge in (RUN, r) before the last round (43_control_operations.md R124, R125). -/
theorem step_run {s : State} {r : Fin 20} (h : s.control = .run r) (hr : r.val < 19) (hrst : s.pins.rst = false) :
    step s = .next ((applyRound (roundAt r.val) s).withControl (.run ⟨r.val + 1, by omega⟩)).advance := by
  have hsel := caseSelect_run h hrst
  obtain hpar | hpar := Nat.mod_two_eq_zero_or_one r.val
  · rw [roundAt_of_even hpar]
    exact step_of_caseSelect (by simpa [hpar] using hsel) (exec_colround h hr)
  · rw [roundAt_of_odd hpar]
    exact step_of_caseSelect (by simpa [hpar] using hsel) (exec_diaground h hr)

/-- The edge of the last round, from (RUN, 19) to FF (43_control_operations.md R125). -/
theorem step_run_last {s : State} (h : s.control = .run 19) (hrst : s.pins.rst = false) :
    step s = .next ((applyRound (roundAt 19) s).withControl .ff).advance := by
  rw [roundAt_of_odd rfl]
  exact step_of_caseSelect (by simpa using caseSelect_run h hrst) (exec_diaground_last h)

/-- The feed-forward edge, from FF to DONE (43_control_operations.md R126). -/
theorem step_ff {s : State} (h : s.control = .ff) (hrst : s.pins.rst = false) :
    step s = .next ((feedForward s).withControl .done).advance :=
  step_of_caseSelect (by simp [caseSelect, hrst, State.fsm, h]) (exec_feedfwd h)

/-! ## The states of one computation (43_control_operations.md R129) -/

/-- No reset in the cycle that the first `k + 1` edges of a computation lead to. -/
theorem pins_rst_of_noResetAfter {s u : State} {k n : Nat} (hn : NoResetAfter s n) (hk : k < n)
    (hu : runFor (k + 1) s = .next u) : u.pins.rst = false := by
  rw [State.pins, inputsAt_runFor hu]
  exact hn k hk

/-- After the LOAD edge and r rounds: (RUN, r), with r rounds of the words loaded in X. -/
theorem runFor_load_run {s : State} (hs : LoadsNow s) (hn : NoResetAfter s 21) (r : Nat) (hr : r < 20) :
    ∃ u, runFor (r + 1) s = .next u ∧ u.control = .run ⟨r, hr⟩ ∧ u.S = s.loadWords ∧
      u.X = rounds r s.loadWords := by
  induction r with
  | zero => exact ⟨_, runFor_succ_of_step (step_of_loadsNow hs) 0, rfl, rfl, rfl⟩
  | succ r ih =>
    obtain ⟨u, hu, hc, hS, hX⟩ := ih (by omega)
    have hstep := step_run hc (by simp; omega) (pins_rst_of_noResetAfter hn (by omega) hu)
    exact ⟨_, (runFor_snoc_eq_next_iff _ _ _).2 ⟨u, hu, hstep⟩, rfl, by simp [hS], by simp [hX]⟩

/-- After the LOAD edge and 20 rounds: FF, with the permuted words in X. -/
theorem runFor_load_ff {s : State} (hs : LoadsNow s) (hn : NoResetAfter s 21) :
    ∃ u, runFor 21 s = .next u ∧ u.control = .ff ∧ u.S = s.loadWords ∧ u.X = permute20 s.loadWords := by
  obtain ⟨u, hu, hc, hS, hX⟩ := runFor_load_run hs hn 19 (by omega)
  have hstep := step_run_last hc (pins_rst_of_noResetAfter hn (by omega) hu)
  refine ⟨_, (runFor_snoc_eq_next_iff _ _ _).2 ⟨u, hu, hstep⟩, rfl, by simp [hS], ?_⟩
  rw [advance_X, withControl_X, applyRound_X, hX, ← rounds_succ, permute20, nRounds]

/-- After the LOAD edge, 20 rounds and the feed-forward: DONE, with the result in X. -/
theorem runFor_load_done {s : State} (hs : LoadsNow s) (hn : NoResetAfter s 21) :
    ∃ u, runFor 22 s = .next u ∧ u.control = .done ∧ u.S = s.loadWords ∧
      u.X = accumulate s.loadWords (permute20 s.loadWords) := by
  obtain ⟨u, hu, hc, hS, hX⟩ := runFor_load_ff hs hn
  have hstep := step_ff hc (pins_rst_of_noResetAfter hn (by omega) hu)
  exact ⟨_, (runFor_snoc_eq_next_iff _ _ _).2 ⟨u, hu, hstep⟩, rfl, by simp [hS], by simp [hS, hX]⟩

/-! ## The control pairs reached from reset (10_state.md R34) -/

/-- The state after reset under the stimulus script `RUN ZERO, ZERO` (30_encoding.md R72). -/
def resetThenRun : State :=
  { State.reset with script := scriptOf 0 [⟨none, .run .zero .zero, none⟩] }

theorem loadsNow_resetThenRun : LoadsNow resetThenRun := by decide

theorem noResetAfter_resetThenRun : NoResetAfter resetThenRun 21 := by decide

/-- Every value of the control registers is reached from reset, within one computation. -/
theorem control_reached_from_reset (c : Control) :
    ∃ (script : List Inputs) (n : Nat) (t : State),
      runFor n { State.reset with script := script } = .next t ∧ t.control = c := by
  have hl := loadsNow_resetThenRun
  have hn := noResetAfter_resetThenRun
  cases c with
  | idle => exact ⟨[], 0, _, rfl, rfl⟩
  | run r =>
    obtain ⟨t, ht, hc, -⟩ := runFor_load_run hl hn r.val r.isLt
    exact ⟨_, _, t, ht, hc⟩
  | ff =>
    obtain ⟨t, ht, hc, -⟩ := runFor_load_ff hl hn
    exact ⟨_, _, t, ht, hc⟩
  | done =>
    obtain ⟨t, ht, hc, -⟩ := runFor_load_done hl hn
    exact ⟨_, _, t, ht, hc⟩

/-- `controlReachable` lists the pairs of 10_state.md R34. -/
theorem controlReachable_eq_true_iff (f : Fsm) (r : BitVec 5) :
    controlReachable f r = true ↔
      (f = .idle ∧ r = 0) ∨ (f = .run ∧ r.toNat ≤ 19) ∨ (f = .ff ∧ r = 20) ∨ (f = .done ∧ r = 20) := by
  cases f <;> simp [controlReachable, Nat.lt_succ_iff]

/-- Settles O29: no state holds another pair (`controlOk`), and each listed pair is held by control registers that one
computation goes through. -/
theorem reachablePairsExactly : Obligations.ReachablePairsExactly := by
  intro f r
  rw [← controlReachable_eq_true_iff]
  constructor
  · rintro ⟨_, _, t, -, rfl, rfl⟩
    exact controlOk t
  · intro h
    obtain ⟨c, hc⟩ := Option.isSome_iff_exists.1 ((ofPair_isSome f r).trans h)
    obtain ⟨hf, hr⟩ := (ofPair_eq_some_iff f r c).1 hc
    obtain ⟨script, n, t, ht, rfl⟩ := control_reached_from_reset c
    exact ⟨script, n, t, ht, hf, hr⟩

end Sys2Proof.Machine

/-! PROOFS. Family `20_memory.md`: the little-endian words (R42, R43, R54) and the edges at which the data inputs have no
effect (R50). -/

namespace Sys2Proof.Machine

/-! ## A word and its four bytes -/

/-- Byte k of the word of four bytes is the k-th of them: a bit of that byte meets no bit of the three others, which are
shifted past it or end below it (20_memory.md R42). -/
theorem leWord_extractLsb' (b : Vector Byte 4) (k : Fin 4) :
    (leWord b[0] b[1] b[2] b[3]).extractLsb' (8 * k.val) 8 = b[k] := by
  ext j hj
  obtain ⟨k, hk⟩ := k
  obtain rfl | rfl | rfl | rfl : k = 0 ∨ k = 1 ∨ k = 2 ∨ k = 3 := by omega
  all_goals grind [leWord]

/-- A word is determined by its four bytes: bit j is bit j mod 8 of byte j / 8. -/
theorem word_eq_of_bytes_eq {v w : Word}
    (h : ∀ k : Fin 4, v.extractLsb' (8 * k.val) 8 = w.extractLsb' (8 * k.val) 8) : v = w := by
  apply BitVec.eq_of_getLsbD_eq
  intro j hj
  have hbit := congrArg (BitVec.getLsbD · (j % 8)) (h ⟨j / 8, by omega⟩)
  simpa [Nat.mod_lt, Nat.div_add_mod] using hbit

/-- Storing a word built from four bytes gives these bytes (20_memory.md R54). -/
theorem le32Store_leWord (b : Vector Byte 4) : le32Store (leWord b[0] b[1] b[2] b[3]) = b := by
  ext k hk : 1
  rw [le32Store_getElem]
  exact leWord_extractLsb' b ⟨k, hk⟩

/-- The word built from the bytes of a stored word is that word (20_memory.md R54). -/
theorem leWord_le32Store (w : Word) :
    leWord (le32Store w)[0] (le32Store w)[1] (le32Store w)[2] (le32Store w)[3] = w := by
  apply word_eq_of_bytes_eq
  intro k
  rw [leWord_extractLsb', Fin.getElem_fin, le32Store_getElem]

/-- Byte k of word i of a block is the block's byte 4i + k (20_memory.md R42). -/
theorem le32_extractLsb' (blk : Block) (i : Fin 16) (k : Fin 4) :
    (le32 blk i).extractLsb' (8 * k.val) 8 = blk[4 * i.val + k.val] := by
  rw [le32]
  refine (leWord_extractLsb'
    #v[blk[4 * i.val], blk[4 * i.val + 1], blk[4 * i.val + 2], blk[4 * i.val + 3]] k).trans ?_
  obtain ⟨k, hk⟩ := k
  obtain rfl | rfl | rfl | rfl : k = 0 ∨ k = 1 ∨ k = 2 ∨ k = 3 := by omega
  all_goals rfl

/-- Byte 4i + k of the output is byte k of the store of word i (20_memory.md R43). -/
theorem serialize_getElem_word_byte (Y : Words) (i : Fin 16) (k : Fin 4) :
    (serialize Y)[4 * i.val + k.val] = (le32Store Y[i])[k] := by
  have hdiv : (4 * i.val + k.val) / 4 = i.val := by omega
  have hmod : (4 * i.val + k.val) % 4 = k.val := by omega
  simp [hdiv, hmod]

/-- Settles O24: the load and the store byte by byte, and their two round trips, a lemma for each. -/
theorem littleEndianWords : Obligations.LittleEndianWords :=
  ⟨le32_extractLsb', fun w k => le32Store_getElem w k.val k.isLt, serialize_getElem_word_byte,
    fun b0 b1 b2 b3 => le32Store_leWord #v[b0, b1, b2, b3], leWord_le32Store⟩

/-! ## The data inputs at an edge without LOAD -/

/-- What selects LOAD (43_control_operations.md R120, R123). -/
theorem caseSelect_eq_load_iff (c : Selector) :
    caseSelect c = .load ↔ c.rst = false ∧ c.start = true ∧ (c.fsm = .idle ∨ c.fsm = .done) := by
  obtain ⟨rst, start, fsm, rc⟩ := c
  cases rst
  case true => simp [caseSelect]
  case false =>
    cases fsm with
    | idle | done | ff => simp [caseSelect]
    | run => cases h : rc.getLsbD 0 <;> simp [caseSelect, -BitVec.getLsbD_eq_getElem, h]

/-- An edge performs the micro-op that the `case` selects and begins the next cycle, whatever that micro-op answers. -/
theorem step_eq_retire_exec (s : State) : step s = retire (exec (caseSelect s.selector) s) := by
  simp [step, decodeCS_bits]

/-- A write of the control registers at the end of a cycle reads nothing of the state but what the next cycle keeps. -/
theorem retire_writeControl_congr {f : Fsm} {r : BitVec 5} {s t : State} (h : s.advance = t.advance) :
    retire (writeControl f r s) = retire (writeControl f r t) := by
  unfold writeControl
  cases Control.ofPair f r with
  | none => rfl
  | some c => exact congrArg (fun u => Host.Outcome.next (u.withControl c)) h

/-- A micro-op other than LOAD does not read the pins: it answers the same whatever they are (20_memory.md R50). -/
theorem retire_exec_of_ne_load {i : Instr} (hi : i ≠ .load) (s : State) (p q : Inputs) (rest : List Inputs) :
    retire (exec i { s with script := p :: rest }) = retire (exec i { s with script := q :: rest }) := by
  cases i with
  | load => exact absurd rfl hi
  | idleHold | doneHold | reset => rfl
  | colround | diaground | feedfwd => exact retire_writeControl_congr rfl

/-- Settles O36: the data inputs are not in the control selector, so the same micro-op is selected, and it is not LOAD. -/
theorem dataInputsMatterOnlyAtLoad : Obligations.DataInputsMatterOnlyAtLoad := by
  intro s p rest a b hload
  have hi : caseSelect ({ s with script := p :: rest } : State).selector ≠ .load :=
    fun h => hload ((caseSelect_eq_load_iff _).1 h)
  rw [step_eq_retire_exec, step_eq_retire_exec]
  exact retire_exec_of_ne_load hi s _ p rest

end Sys2Proof.Machine

/-! PROOFS. Family `30_encoding.md`: the block bus (R61, R62), the control selector and its decode table (R64, R65, R67),
and the stimulus words and pseudo-operations (R72, R73). -/

namespace Sys2Proof.Machine

/-! ## A block on the 512-bit bus -/

/-- `leNat` is Mathlib's `Nat.ofDigits` in base 256. -/
theorem leNat_eq_ofDigits (l : List Byte) : leNat l = Nat.ofDigits 256 (l.map BitVec.toNat) := by
  induction l with
  | nil => rfl
  | cons b bs ih => simp [leNat, Nat.ofDigits_cons, ih]

theorem toNat_digits_lt (l : List Byte) : ∀ d ∈ l.map BitVec.toNat, d < 256 := by
  intro d hd
  obtain ⟨b, -, rfl⟩ := List.mem_map.1 hd
  exact b.isLt

theorem leNat_lt (l : List Byte) : leNat l < 2 ^ (8 * l.length) := by
  simpa [leNat_eq_ofDigits, Nat.pow_mul] using Nat.ofDigits_lt_base_pow_length (by decide) (toNat_digits_lt l)

/-- Digit k of the little-endian number is byte k. -/
theorem leNat_div_pow_mod (l : List Byte) (k : Nat) (hk : k < l.length) :
    leNat l / 256 ^ k % 256 = l[k].toNat := by
  rw [leNat_eq_ofDigits, Nat.ofDigits_div_pow_eq_ofDigits_drop k (by decide) _ (toNat_digits_lt l), ← List.map_drop,
    List.drop_eq_getElem_cons hk, List.map_cons, Nat.ofDigits_cons, Nat.add_mul_mod_self_left]
  exact Nat.mod_eq_of_lt l[k].isLt

/-- A width of eight bits a byte holds the little-endian number. -/
theorem toNat_ofNat_leNat {n : Nat} (l : List Byte) (hn : 8 * l.length = n) :
    (BitVec.ofNat n (leNat l)).toNat = leNat l := by
  subst hn
  exact Nat.mod_eq_of_lt (leNat_lt l)

/-- The bus as a number is the block read little-endian (30_encoding.md R61). -/
theorem toBus_toNat (blk : Block) : (toBus blk).toNat = leNat blk.toList :=
  toNat_ofNat_leNat blk.toList (by simp)

/-- Byte k of a block is on the bits [8k+7:8k] of its bus (30_encoding.md R61). -/
theorem toBus_extractLsb' (blk : Block) (k : Fin 64) : (toBus blk).extractLsb' (8 * k.val) 8 = blk[k] := by
  have hdigit := leNat_div_pow_mod blk.toList k.val (by simp)
  apply BitVec.eq_of_toNat_eq
  rw [BitVec.extractLsb'_toNat, toBus_toNat, Nat.shiftRight_eq_div_pow, Nat.pow_mul]
  simpa using hdigit

theorem ofBus_toBus (blk : Block) : ofBus (toBus blk) = blk := by
  ext k hk : 1
  rw [ofBus_getElem]
  exact toBus_extractLsb' blk ⟨k, hk⟩

/-- A vector of n bytes is determined by them: bit j is bit j mod 8 of byte j / 8. -/
theorem bitVec_eq_of_bytes_eq {n : Nat} {v w : BitVec (8 * n)}
    (h : ∀ k : Fin n, v.extractLsb' (8 * k.val) 8 = w.extractLsb' (8 * k.val) 8) : v = w := by
  apply BitVec.eq_of_getLsbD_eq
  intro j hj
  have hbit := congrArg (BitVec.getLsbD · (j % 8)) (h ⟨j / 8, by omega⟩)
  simpa [Nat.mod_lt, Nat.div_add_mod] using hbit

theorem toBus_ofBus (bus : BitVec 512) : toBus (ofBus bus) = bus := by
  refine bitVec_eq_of_bytes_eq (n := 64) fun k => ?_
  rw [toBus_extractLsb', Fin.getElem_fin, ofBus_getElem]

/-- Byte k of word i of a bus is its byte 4i + k. -/
theorem busWord_extractLsb' (bus : BitVec 512) (i : Fin 16) (k : Fin 4) :
    (busWord bus i).extractLsb' (8 * k.val) 8 = bus.extractLsb' (8 * (4 * i.val + k.val)) 8 := by
  ext j hj
  have hlt : 8 * k.val + j < 32 := by omega
  have hplace : 32 * i.val + (8 * k.val + j) = 8 * (4 * i.val + k.val) + j := by omega
  simp [busWord, hlt, hplace]

/-- Word i of a block is on the bits [32i+31:32i] of its bus (30_encoding.md R62). -/
theorem busWord_toBus (blk : Block) (i : Fin 16) : busWord (toBus blk) i = le32 blk i := by
  apply word_eq_of_bytes_eq
  intro k
  rw [busWord_extractLsb', le32_extractLsb']
  exact toBus_extractLsb' blk ⟨4 * i.val + k.val, by omega⟩

/-- Word i loaded from a serialized vector is the vector's word i (42_feedforward_serialize.md R113). -/
theorem le32_serialize (Y : Words) (i : Fin 16) : le32 (serialize Y) i = Y[i] := by
  apply word_eq_of_bytes_eq
  intro k
  rw [le32_extractLsb', serialize_getElem_word_byte, Fin.getElem_fin, le32Store_getElem]

/-- Settles O25: the bytes by the digits of the little-endian number, the words by their bytes, and the two round trips. -/
theorem blockBusFormat : Obligations.BlockBusFormat :=
  ⟨toBus_extractLsb', busWord_toBus, fun Y i => (busWord_toBus _ i).trans (le32_serialize Y i), toBus_toNat,
    ofBus_toBus, toBus_ofBus⟩

/-! ## Two control bits above two fields

Both the control selector (30_encoding.md R64) and the stimulus word (R73) are two bits above two fields. -/

section Fields

variable {m n : Nat}

theorem getLsbD_fields_top (r s : Bool) (x : BitVec m) (y : BitVec n) :
    (BitVec.ofBool r ++ BitVec.ofBool s ++ x ++ y).getLsbD (n + m + 1) = r := by
  simp only [BitVec.getLsbD_append, BitVec.getLsbD_ofBool]
  simp [Nat.add_assoc]

theorem getLsbD_fields_second (r s : Bool) (x : BitVec m) (y : BitVec n) :
    (BitVec.ofBool r ++ BitVec.ofBool s ++ x ++ y).getLsbD (n + m) = s := by
  simp only [BitVec.getLsbD_append, BitVec.getLsbD_ofBool]
  simp

theorem extractLsb'_fields_high (r s : Bool) (x : BitVec m) (y : BitVec n) :
    (BitVec.ofBool r ++ BitVec.ofBool s ++ x ++ y).extractLsb' n m = x := by
  rw [BitVec.extractLsb'_append_eq_of_le (Nat.le_refl n), Nat.sub_self, BitVec.extractLsb'_append_eq_right]

theorem extractLsb'_fields_low (r s : Bool) (x : BitVec m) (y : BitVec n) :
    (BitVec.ofBool r ++ BitVec.ofBool s ++ x ++ y).extractLsb' 0 n = y :=
  BitVec.extractLsb'_append_eq_right

theorem ofBool_append_ofBool {k : Nat} (w : BitVec k) (i : Nat) :
    BitVec.ofBool (w.getLsbD (i + 1)) ++ BitVec.ofBool (w.getLsbD i) = w.extractLsb' i (1 + 1) := by
  rw [← BitVec.extractLsb'_append_extractLsb'_eq_extractLsb' (rfl : i + 1 = i + 1)]
  congr 1
  all_goals
    ext j hj
    obtain rfl : j = 0 := by omega
    simp

/-- The two bits and the two fields are all there is. -/
theorem append_fields (w : BitVec (1 + 1 + m + n)) :
    BitVec.ofBool (w.getLsbD (n + m + 1)) ++ BitVec.ofBool (w.getLsbD (n + m)) ++ w.extractLsb' n m ++
      w.extractLsb' 0 n = w := by
  rw [ofBool_append_ofBool, BitVec.extractLsb'_append_extractLsb'_eq_extractLsb' rfl,
    BitVec.extractLsb'_append_extractLsb'_eq_extractLsb' (Nat.zero_add n).symm, BitVec.extractLsb'_eq_self]

end Fields

/-! ## The control selector (30_encoding.md R64, R65) -/

theorem fsmOfBits_bits (f : Fsm) : fsmOfBits f.bits = f := by
  cases f <;> rfl

theorem bits_fsmOfBits (b : BitVec 2) : (fsmOfBits b).bits = b := by
  revert b; decide

theorem selectorOfBits_bits (c : Selector) : selectorOfBits c.bits = c := by
  obtain ⟨rst, start, fsm, rc⟩ := c
  simp only [selectorOfBits, Selector.bits, Selector.mk.injEq]
  refine ⟨getLsbD_fields_top _ _ _ _, getLsbD_fields_second _ _ _ _, ?_, extractLsb'_fields_low _ _ _ _⟩
  rw [extractLsb'_fields_high, fsmOfBits_bits]

theorem bits_selectorOfBits (cs : BitVec 9) : (selectorOfBits cs).bits = cs := by
  simp only [selectorOfBits, Selector.bits, bits_fsmOfBits]
  exact append_fields (m := 2) (n := 5) cs

/-- fsm[0] is 1 exactly in the busy control states (30_encoding.md R65). -/
theorem fsm_bits_getLsbD_zero (f : Fsm) : f.bits.getLsbD 0 = true ↔ f = .run ∨ f = .ff := by
  cases f <;> decide

/-- Settles O3: the two bits and two fields of CS, the codes of fsm, and the selector of a state by definition. -/
theorem controlSelectorLayout : Obligations.ControlSelectorLayout := by
  refine ⟨fun c => ⟨getLsbD_fields_top _ _ _ _, getLsbD_fields_second _ _ _ _, ?_, extractLsb'_fields_low _ _ _ _,
    selectorOfBits_bits c⟩, bits_selectorOfBits, fsm_bits_getLsbD_zero, fun _ => rfl⟩
  rw [Selector.bits, extractLsb'_fields_high]
  cases c.fsm <;> rfl

/-! ## The decode table (30_encoding.md R67) -/

theorem admits_iff (i : Instr) (cs : BitVec 9) : i.admits cs = true ↔ cs &&& i.mask = i.pattern := by
  simp [Instr.admits]

/-- The law of each row of the table holds (Laws/PerInstr.lean). -/
theorem encoding_statement (i : Instr) : Laws.Encoding.Statement i := by
  cases i with
  | reset => exact Laws.Encoding.reset
  | load => exact Laws.Encoding.load
  | idleHold => exact Laws.Encoding.idleHold
  | doneHold => exact Laws.Encoding.doneHold
  | colround => exact Laws.Encoding.colround
  | diaground => exact Laws.Encoding.diaground
  | feedfwd => exact Laws.Encoding.feedfwd

theorem decodeCS_encodeCS (i : Instr) (free : BitVec 9) : decodeCS (encodeCS i free) = i :=
  ((encoding_statement i).2 free).2

/-- A CS value of a row is the row's pattern with the value's own bits for the letters. -/
theorem encodeCS_of_admits {i : Instr} {cs : BitVec 9} (h : i.admits cs = true) : encodeCS i cs = cs := by
  rw [encodeCS, ← (admits_iff i cs).1 h]
  ext j hj
  simp [← Bool.and_or_distrib_left]

/-- The rows cover all 512 values: each lies in the row it is decoded to. -/
theorem admits_decodeCS (cs : BitVec 9) : (decodeCS cs).admits cs = true := by
  revert cs; decide +kernel

/-- The decoder gives a micro-op exactly for the CS values of its row. -/
theorem decodeCS_eq_iff (i : Instr) (cs : BitVec 9) : decodeCS cs = i ↔ cs &&& i.mask = i.pattern := by
  rw [← admits_iff]
  constructor
  · rintro rfl
    exact admits_decodeCS cs
  · intro h
    rw [← encodeCS_of_admits h, decodeCS_encodeCS]

/-- Settles O1: `decodeCS_eq_iff` at each row. -/
theorem decodeTableRows : Obligations.DecodeTableRows := fun cs =>
  ⟨decodeCS_eq_iff .reset cs, decodeCS_eq_iff .load cs, decodeCS_eq_iff .idleHold cs, decodeCS_eq_iff .doneHold cs,
    decodeCS_eq_iff .colround cs, decodeCS_eq_iff .diaground cs, decodeCS_eq_iff .feedfwd cs⟩

/-! ## The stimulus word (30_encoding.md R73) -/

theorem ofStimulusWord_stimulusWord (i : Inputs) : ofStimulusWord (stimulusWord i) = i := by
  obtain ⟨rst, start, a, b⟩ := i
  simp only [ofStimulusWord, stimulusWord, Inputs.mk.injEq]
  refine ⟨getLsbD_fields_top _ _ _ _, getLsbD_fields_second _ _ _ _, ?_, ?_⟩
  · rw [extractLsb'_fields_low, ofBus_toBus]
  · rw [extractLsb'_fields_high, ofBus_toBus]

theorem stimulusWord_ofStimulusWord (w : BitVec 1026) : stimulusWord (ofStimulusWord w) = w := by
  simp only [ofStimulusWord, stimulusWord, toBus_ofBus]
  exact append_fields (m := 512) (n := 512) w

/-- Settles O40: the two bits and two fields of the stimulus word, and the inputs of each operation by definition. -/
theorem stimulusWordFormat : Obligations.StimulusWordFormat :=
  ⟨fun i => ⟨getLsbD_fields_top _ _ _ _, getLsbD_fields_second _ _ _ _, extractLsb'_fields_high _ _ _ _,
      extractLsb'_fields_low _ _ _ _, ofStimulusWord_stimulusWord i⟩,
    stimulusWord_ofStimulusWord, fun _ => ⟨rfl, rfl, rfl, rfl⟩, fun _ _ _ => ⟨rfl, rfl⟩⟩

/-! ## The pseudo-operations (30_encoding.md R72) -/

@[simp] theorem length_inputsFrom (t : Nat) (os : List StimOp) : (inputsFrom t os).length = os.length := by
  induction os generalizing t with
  | nil => rfl
  | cons o os ih => simp [inputsFrom, ih]

@[simp] theorem inputsFrom_getElem (t : Nat) (os : List StimOp) (j : Nat) (h : j < (inputsFrom t os).length) :
    (inputsFrom t os)[j] = inputsOf (t + j) (os[j]'(by simpa using h)) := by
  induction os generalizing t j with
  | nil => simp [inputsFrom] at h
  | cons o os ih =>
    cases j with
    | zero => rfl
    | succ j => simp [inputsFrom, ih, Nat.add_assoc, Nat.add_comm 1]

/-- The inputs of the cycles that a script of operations covers. -/
theorem inputsAt_of_script {s : State} {os : List StimOp} {rest : List Inputs}
    (h : s.script = inputsFrom s.cycle os ++ rest) {j : Nat} (hj : j < os.length) :
    s.inputsAt j = inputsOf (s.cycle + j) os[j] := by
  have hlen : j < (inputsFrom s.cycle os).length := by simpa using hj
  rw [State.inputsAt, h, List.getD_append _ _ _ _ hlen, List.getD_eq_getElem _ _ hlen, inputsFrom_getElem]

/-- Each edge takes one cycle's inputs off the script. -/
theorem script_runFor {k : Nat} {s t : State} (h : runFor k s = .next t) : t.script = s.script.drop k := by
  induction k generalizing s with
  | zero => cases h; rfl
  | succ k ih =>
    obtain ⟨u, hu, ht⟩ := (runFor_succ_eq_next_iff k s t).1 h
    obtain ⟨v, hv, rfl⟩ := (step_eq_next_iff s u).1 hu
    rw [ih ht, advance_script, (exec_keeps_inputs hv).1, List.drop_tail]

/-- In the 22 cycles of `RUN a, b` from IDLE or DONE a LOAD of the input block a happens, and no reset. -/
theorem loads_of_run_script {s : State} {a b : Blk} {rest : List Inputs} (hs : s.fsm = .idle ∨ s.fsm = .done)
    (h : s.script = inputsFrom s.cycle (expand (.run a b)) ++ rest) :
    LoadsNow s ∧ NoResetAfter s 21 ∧ s.pins.inBlock = blockOf a := by
  have hgo : s.pins = inputsOf s.cycle (.go a b) := inputsAt_of_script h (by simp [expand])
  refine ⟨⟨by rw [hgo]; rfl, by rw [hgo]; rfl, hs⟩, fun j hj => ?_, by rw [hgo]; rfl⟩
  rw [inputsAt_of_script h (by simp [expand]; omega)]
  simp only [expand, List.getElem_cons_succ, List.getElem_replicate]
  rfl

/-- A done state with an accumulated result of a block's words presents that block's SalsaCore. -/
theorem outBlock_of_done {u : State} {a b : Block} (hc : u.control = .done)
    (hX : u.X = accumulate (deserialize a) (permute20 (deserialize a))) : u.outBlock = salsaCore a b := by
  simp [State.outBlock, (done_eq_true_iff u).2 (congrArg Control.fsm hc), hX, salsaCore]

/-- Settles O42: the expansions by definition, and the computation `runFor_load_done` from the LOAD of RUN's first line. -/
theorem pseudoOperations : Obligations.PseudoOperations := by
  refine ⟨fun _ _ => rfl, fun _ => rfl, rfl, fun s a b rest hs hscript => ?_⟩
  replace hscript : s.script = inputsFrom s.cycle (expand (.run a b)) ++ rest := by simpa [scriptOf] using hscript
  obtain ⟨hload, hrst, ha⟩ := loads_of_run_script hs hscript
  obtain ⟨u, hu, hc, -, hX⟩ := runFor_load_done hload hrst
  rw [State.loadWords, ha] at hX
  refine ⟨u, hu, (done_eq_true_iff u).2 (congrArg Control.fsm hc), ?_, outBlock_of_done hc hX⟩
  rw [script_runFor hu, hscript]
  exact List.drop_left' (by simp [expand])

end Sys2Proof.Machine

/-! PROOFS. Family `40_arx_quarter_round.md`: the ARX primitives (R80, R81, R82) and the quarter-round (R83, R85). -/

namespace Sys2Proof.Machine

/-! ## The ARX primitives -/

/-- The carry out of the 33-bit sum is lost in the addition of words (40_arx_quarter_round.md R80). -/
theorem add32_eq_add (a b : Word) : add32 a b = a + b := by
  apply BitVec.eq_of_toNat_eq
  simp only [add32, BitVec.truncate_eq_setWidth, BitVec.extractLsb'_toNat, BitVec.toNat_add, BitVec.toNat_setWidth,
    Nat.shiftRight_zero]
  omega

theorem add32_self (a : Word) : add32 a a = a <<< 1 := by
  apply BitVec.eq_of_toNat_eq
  rw [add32_eq_add, BitVec.toNat_add, BitVec.toNat_shiftLeft, Nat.shiftLeft_eq, pow_one, mul_two]

/-- The n low bits of ROTL32(x, n) are those `x >>> (32 - n)` moves down, the others those `x <<< n` moves up
(40_arx_quarter_round.md R82). -/
theorem getLsbD_rotl32 (x : Word) {n j : Nat} (hn : n ≤ 32) (hj : j < 32) :
    (rotl32 x n).getLsbD j = x.getLsbD ((j + 32 - n) % 32) := by
  rw [rotl32, BitVec.getLsbD_or, BitVec.getLsbD_shiftLeft, BitVec.getLsbD_ushiftRight]
  by_cases h : j < n
  · have hplace : (j + 32 - n) % 32 = 32 - n + j := by omega
    simp [h, hplace]
  · have hplace : (j + 32 - n) % 32 = j - n := by omega
    have hout : x.getLsbD (32 - n + j) = false := BitVec.getLsbD_of_ge _ _ (by omega)
    simp [h, hj, hplace, hout, -BitVec.getLsbD_eq_getElem]

/-- Settles O18: addition and exclusive or by the laws of words, rotation bit by bit by `getLsbD_rotl32`. -/
theorem arxPrimitives : Obligations.ArxPrimitives := by
  refine ⟨fun a b => ⟨?_, ?_, ?_, add32_self a, fun c => ?_⟩, fun _ _ _ => BitVec.getLsbD_xor,
    fun a => ⟨BitVec.xor_self, BitVec.xor_zero⟩, fun x n j hn hj => getLsbD_rotl32 x (by omega) hj⟩
  · rw [add32_eq_add, BitVec.toNat_add]
  · simp only [add32_eq_add, BitVec.add_comm]
  · rw [add32_eq_add]
    exact BitVec.add_zero a
  · simp only [add32_eq_add, BitVec.add_assoc]

/-! ## The eight steps -/

/-- Settles O19: the equations are the steps of `qr` by definition, and the zero tuple is evaluated. -/
theorem quarterRoundSteps : Obligations.QuarterRoundSteps := by
  refine ⟨?_, by decide⟩
  rintro a b c d _ _ _ _ _ _ _ _ rfl rfl rfl rfl rfl rfl rfl rfl
  rfl

/-! ## The quarter-round loses no information

Each of the eight steps is an addition, an exclusive or or a rotation, and each of these is one to one in its first word
(40_arx_quarter_round.md R85). -/

@[simp] theorem add32_left_inj {a a' : Word} (b : Word) : add32 a b = add32 a' b ↔ a = a' := by
  simp only [add32_eq_add, BitVec.add_left_inj]

@[simp] theorem xor32_left_inj {a a' : Word} (b : Word) : xor32 a b = xor32 a' b ↔ a = a' :=
  BitVec.xor_left_inj b

/-- A rotation keeps every bit: bit k of x is bit (k + n) mod 32 of ROTL32(x, n). -/
theorem rotl32_inj {x y : Word} {n : Nat} (hn : n ≤ 32) : rotl32 x n = rotl32 y n ↔ x = y := by
  refine ⟨fun h => BitVec.eq_of_getLsbD_eq fun k hk => ?_, fun h => h ▸ rfl⟩
  have hplace : ((k + n) % 32 + 32 - n) % 32 = k := by omega
  have hbit := congrArg (BitVec.getLsbD · ((k + n) % 32)) h
  simpa only [getLsbD_rotl32 _ hn (Nat.mod_lt _ (by decide : 0 < 32)), hplace] using hbit

/-- The first four or the last four of the eight steps of QR, with rotations m and n. -/
def halfRound (m n : Nat) : Word × Word × Word × Word → Word × Word × Word × Word
  | (a, b, c, d) =>
    let a1 := add32 a b
    let d1 := rotl32 (xor32 d a1) m
    let c1 := add32 c d1
    let b1 := rotl32 (xor32 b c1) n
    (a1, b1, c1, d1)

theorem qr_eq_halfRound_halfRound (v : Word × Word × Word × Word) :
    qr v.1 v.2.1 v.2.2.1 v.2.2.2 = halfRound rot3 rot4 (halfRound rot1 rot2 v) := rfl

/-- The four steps are undone last to first: b from b1 and c1, c from c1 and d1, d from d1 and a1, a from a1 and b. -/
theorem halfRound_injective {m n : Nat} (hm : m ≤ 32) (hn : n ≤ 32) : Function.Injective (halfRound m n) := by
  rintro ⟨a, b, c, d⟩ ⟨a', b', c', d'⟩ h
  simp only [halfRound, Prod.mk.injEq] at h
  obtain ⟨ha, hb, hc, hd⟩ := h
  rw [hc, rotl32_inj hn, xor32_left_inj] at hb
  rw [hd, add32_left_inj] at hc
  rw [ha, rotl32_inj hm, xor32_left_inj] at hd
  rw [hb, add32_left_inj] at ha
  rw [ha, hb, hc, hd]

/-- Settles O20: QR is two halves that lose nothing, and an injective function on a finite type is onto. -/
theorem quarterRoundIsBijective : Obligations.QuarterRoundIsBijective := by
  refine Finite.injective_iff_bijective.1 ?_
  simp only [qr_eq_halfRound_halfRound]
  exact (halfRound_injective (by decide) (by decide)).comp (halfRound_injective (by decide) (by decide))

end Sys2Proof.Machine

/-! PROOFS. Family `41_round_schedule.md`: the binding of a quadruple (R92), the lanes of a round (R90, R91, R95) and the
20-round permutation (R96, R97). -/

namespace Sys2Proof

/-! ## One quadruple (41_round_schedule.md R92) -/

/-- The four indices of a quadruple, in its order. -/
def Quad.indices (q : Quad) : List (Fin 16) := [q.idx0, q.idx1, q.idx2, q.idx3]

/-- The four words of a vector that a quadruple names, in its order. -/
def Quad.words (q : Quad) (V : Words) : Word × Word × Word × Word :=
  (V[q.idx0], V[q.idx1], V[q.idx2], V[q.idx3])

/-- What a quadruple's lane computes from a vector. -/
def Quad.lane (q : Quad) (V : Words) : Word × Word × Word × Word :=
  Machine.qr V[q.idx0] V[q.idx1] V[q.idx2] V[q.idx3]

end Sys2Proof

namespace Sys2Proof.Machine

theorem words_eq_iff (q : Quad) (V W : Words) : q.words V = q.words W ↔ ∀ i ∈ q.indices, V[i] = W[i] := by
  simp [Quad.words, Quad.indices]

theorem lane_congr {q : Quad} {V W : Words} (h : q.words V = q.words W) : q.lane V = q.lane W := by
  simp only [Quad.words, Prod.mk.injEq] at h
  obtain ⟨h0, h1, h2, h3⟩ := h
  simp only [Quad.lane, h0, h1, h2, h3]

/-- The write-back: of four writes at distinct indices none covers another. -/
theorem words_applyQ {q : Quad} (hq : q.indices.Nodup) (V : Words) : q.words (applyQ V q) = q.lane V := by
  simp only [Quad.indices, List.nodup_cons, List.mem_cons, List.not_mem_nil, or_false, not_or, Fin.ext_iff] at hq
  obtain ⟨⟨h01, h02, h03⟩, ⟨h12, h13⟩, h23, -⟩ := hq
  simp [Quad.words, Quad.lane, applyQ, h01, h02, h03, h12, h13, h23, Ne.symm]

/-- The frame of APPLYQ. -/
theorem applyQ_getElem_of_notMem {q : Quad} {i : Fin 16} (hi : i ∉ q.indices) (V : Words) : (applyQ V q)[i] = V[i] := by
  simp only [Quad.indices, List.mem_cons, List.not_mem_nil, or_false, not_or, Fin.ext_iff] at hi
  obtain ⟨h0, h1, h2, h3⟩ := hi
  simp [applyQ, Ne.symm h0, Ne.symm h1, Ne.symm h2, Ne.symm h3]

/-- Settles O21: the write-back and the frame of APPLYQ. -/
theorem quadrupleBinding : Obligations.QuadrupleBinding :=
  fun V _ hq => ⟨words_applyQ hq V, fun _ hi => applyQ_getElem_of_notMem hi V⟩

/-! ## The lanes of a round (41_round_schedule.md R95) -/

theorem words_applyQ_of_disjoint {p q : Quad} (h : List.Disjoint q.indices p.indices) (V : Words) :
    q.words (applyQ V p) = q.words V :=
  (words_eq_iff q _ _).2 fun _ hi => applyQ_getElem_of_notMem (h hi) V

theorem words_applyAll_of_disjoint {q : Quad} {qs : List Quad}
    (h : ∀ p ∈ qs, List.Disjoint q.indices p.indices) (V : Words) : q.words (applyAll qs V) = q.words V := by
  induction qs generalizing V with
  | nil => rfl
  | cons p ps ih =>
    calc q.words (applyAll ps (applyQ V p))
      _ = q.words (applyQ V p) := ih (fun r hr => h r (.tail p hr)) _
      _ = q.words V := words_applyQ_of_disjoint (h p (.head ps)) V

/-- The sequence of in-place applications agrees with lanes that all read the old vector, when no index stands twice. -/
theorem words_applyAll {qs : List Quad} (hqs : (qs.flatMap Quad.indices).Nodup) {q : Quad} (hq : q ∈ qs) (V : Words) :
    q.words (applyAll qs V) = q.lane V := by
  induction qs generalizing V with
  | nil => cases hq
  | cons p ps ih =>
    rw [List.flatMap_cons, List.nodup_append'] at hqs
    obtain ⟨hp, hps, hdisj⟩ := hqs
    have hlater : ∀ r ∈ ps, List.Disjoint p.indices r.indices := fun r hr _ hi hi' =>
      hdisj hi (List.mem_flatMap.2 ⟨r, hr, hi'⟩)
    obtain rfl | hq := List.mem_cons.1 hq
    · exact (words_applyAll_of_disjoint hlater _).trans (words_applyQ hp V)
    · exact (ih hps hq _).trans (lane_congr (words_applyQ_of_disjoint (hlater q hq).symm V))

/-- The quadruples name each of the 16 words exactly once. -/
def Partitions (qs : List Quad) : Prop := (qs.flatMap Quad.indices).Perm (List.finRange 16)

theorem partitions_colQ : Partitions colQ := by unfold Partitions; decide

theorem partitions_diagQ : Partitions diagQ := by unfold Partitions; decide

theorem Partitions.nodup {qs : List Quad} (h : Partitions qs) : (qs.flatMap Quad.indices).Nodup :=
  h.nodup_iff.2 (List.nodup_finRange 16)

theorem Partitions.of_perm {ps qs : List Quad} (hp : ps.Perm qs) (h : Partitions qs) : Partitions ps :=
  (hp.flatMap_right Quad.indices).trans h

/-- A vector is determined by the words of the quadruples of a partition. -/
theorem Partitions.eq_of_words_eq {qs : List Quad} (h : Partitions qs) {V W : Words}
    (hw : ∀ q ∈ qs, q.words V = q.words W) : V = W := by
  refine Vector.ext fun i hi => ?_
  obtain ⟨q, hq, hiq⟩ := List.mem_flatMap.1 (h.mem_iff.2 (List.mem_finRange ⟨i, hi⟩))
  exact (words_eq_iff q V W).1 (hw q hq) _ hiq

/-- Both orders give each quadruple its lane's result from the old vector. -/
theorem applyAll_eq_of_perm {ps qs : List Quad} (hp : ps.Perm qs) (h : Partitions qs) (V : Words) :
    applyAll ps V = applyAll qs V :=
  h.eq_of_words_eq fun q hq => by
    rw [words_applyAll (h.of_perm hp).nodup (hp.mem_iff.2 hq), words_applyAll h.nodup hq]

/-- Settles O22: both tables are partitions of the 16 words, so the order is free and each lane reads the old vector. -/
theorem lanesAreIndependent : Obligations.LanesAreIndependent :=
  ⟨rfl, rfl, partitions_colQ, partitions_diagQ,
    fun _ V => ⟨fun hp => applyAll_eq_of_perm hp partitions_colQ V, fun hp => applyAll_eq_of_perm hp partitions_diagQ V⟩,
    fun _ V => ⟨fun hq => words_applyAll partitions_colQ.nodup hq V, fun hq => words_applyAll partitions_diagQ.nodup hq V⟩⟩

/-! ## The 20-round permutation (41_round_schedule.md R96, R97) -/

/-- Rounds 2n and 2n + 1 make one double round. -/
theorem rounds_two_mul (n : Nat) (V : Words) : rounds (2 * n) V = doubleRound^[n] V := by
  induction n with
  | zero => rfl
  | succ n ih =>
    rw [Function.iterate_succ_apply', ← ih, Nat.mul_succ, rounds_succ, rounds_succ, roundAt_of_odd (by omega),
      roundAt_of_even (by omega), doubleRound]

/-- Settles O23: the rounds two by two; the other parts restate definitions. -/
theorem permutationIsTenDoubleRounds : Obligations.PermutationIsTenDoubleRounds :=
  ⟨fun _ => rfl, rounds_two_mul nDoubleRounds, rfl, rfl, rfl, rfl, fun _ _ => rfl, fun _ => rfl⟩

end Sys2Proof.Machine

/-! PROOFS. Family `42_feedforward_serialize.md`: loading and serializing (R110, R113), the block function (R112, R114) and
equal outputs for equal inputs (R115, R116). -/

namespace Sys2Proof.Machine

/-! ## Loading and serializing are inverse (42_feedforward_serialize.md R110, R113) -/

theorem deserialize_serialize (Y : Words) : deserialize (serialize Y) = Y := by
  ext i hi : 1
  rw [deserialize_getElem]
  exact le32_serialize Y ⟨i, hi⟩

/-- Byte j goes into word j / 4 as its byte j mod 4, and comes out of it at 4 (j / 4) + j mod 4. -/
theorem serialize_deserialize (blk : Block) : serialize (deserialize blk) = blk := by
  ext j hj : 1
  have hplace : 4 * (j / 4) + j % 4 = j := Nat.div_add_mod j 4
  rw [serialize_getElem, deserialize_getElem]
  simpa only [hplace] using le32_extractLsb' blk ⟨j / 4, by omega⟩ ⟨j % 4, by omega⟩

/-- Settles O26: the words and the bytes by the laws of the ports, and a lemma for each round trip. -/
theorem serializeInvertsDeserialize : Obligations.SerializeInvertsDeserialize :=
  ⟨fun blk i => deserialize_getElem blk i.val i.isLt,
    fun Y i k => (serialize_getElem_word_byte Y i k).trans (le32Store_getElem Y[i] k.val k.isLt),
    serialize_deserialize, deserialize_serialize⟩

/-! ## Zero is a fixed point (42_feedforward_serialize.md R114)

QR gives zeros for zeros, so every quadruple of every round leaves the zero vector as it is. -/

/-- The vector of 16 zero words. -/
def zeroWords : Words := Vector.replicate 16 0

theorem qr_zero : qr 0#32 0#32 0#32 0#32 = (0#32, 0#32, 0#32, 0#32) := quarterRoundSteps.2

theorem applyQ_zeroWords (q : Quad) : applyQ zeroWords q = zeroWords := by
  simp [applyQ, zeroWords, qr_zero]

theorem applyAll_zeroWords (qs : List Quad) : applyAll qs zeroWords = zeroWords :=
  List.foldl_fixed' applyQ_zeroWords qs

theorem roundAt_zeroWords (r : Nat) : roundAt r zeroWords = zeroWords := by
  unfold roundAt
  split
  · exact applyAll_zeroWords colQ
  · exact applyAll_zeroWords diagQ

theorem rounds_zeroWords (n : Nat) : rounds n zeroWords = zeroWords := by
  induction n with
  | zero => rfl
  | succ n ih => rw [rounds_succ, ih, roundAt_zeroWords]

theorem accumulate_zeroWords : accumulate zeroWords zeroWords = zeroWords := by
  ext i hi : 1
  rw [accumulate_getElem, add32_eq_add]
  simp [zeroWords]

theorem serialize_zeroWords : serialize zeroWords = Vector.replicate 64 0 := by
  ext j hj : 1
  rw [serialize_getElem]
  simp [zeroWords]

theorem deserialize_zero : deserialize (Vector.replicate 64 0) = zeroWords := by
  rw [← serialize_zeroWords, deserialize_serialize]

/-! ## The block function (42_feedforward_serialize.md R112, R114) -/

theorem toNat_accumulate (S W : Words) (i : Fin 16) :
    ((accumulate S W)[i]).toNat = ((S[i]).toNat + (W[i]).toNat) % 2 ^ 32 := by
  rw [Fin.getElem_fin, accumulate_getElem, add32_eq_add]
  exact BitVec.toNat_add S[i] W[i]

/-- The constants block is not read (42_feedforward_serialize.md R115). -/
theorem salsaCore_eq (a c : Block) :
    salsaCore a c = serialize (accumulate (deserialize a) (permute20 (deserialize a))) := rfl

theorem salsaCore_zero (c : Block) : salsaCore (Vector.replicate 64 0) c = Vector.replicate 64 0 := by
  rw [salsaCore_eq, deserialize_zero, permute20, rounds_zeroWords, accumulate_zeroWords, serialize_zeroWords]

/-- Settles O27: the sum of words by value, the composition by definition, and the zero vector through each of its steps. -/
theorem blockFunction : Obligations.BlockFunction :=
  ⟨toNat_accumulate, salsaCore_eq, salsaCore_zero⟩

/-! ## Equal inputs, equal outputs (42_feedforward_serialize.md R115, R116) -/

/-- A computation ends in a done state that presents SalsaCore of the input block at its LOAD edge, whatever constants
block that is said with. -/
theorem runFor_load_outBlock {s : State} (hs : LoadsNow s) (hn : NoResetAfter s 21) (c : Block) :
    ∃ u, runFor 22 s = .next u ∧ u.done = true ∧ u.outBlock = salsaCore s.pins.inBlock c := by
  obtain ⟨u, hu, hc, -, hX⟩ := runFor_load_done hs hn
  exact ⟨u, hu, (done_eq_true_iff u).2 (congrArg Control.fsm hc), outBlock_of_done hc hX⟩

/-- Settles O39: both computations present SalsaCore of the same input block, in which the constants block is not read. -/
theorem equalInputsGiveEqualOutputs : Obligations.EqualInputsGiveEqualOutputs := by
  intro s t hs ht hns hnt hin
  have hcore (c1 c2 : Block) : salsaCore s.pins.inBlock c1 = salsaCore t.pins.inBlock c2 := by
    rw [salsaCore_eq, salsaCore_eq, hin]
  obtain ⟨s', hs', hsdone, hsout⟩ := runFor_load_outBlock hs hns s.pins.constBlock
  obtain ⟨t', ht', htdone, htout⟩ := runFor_load_outBlock ht hnt t.pins.constBlock
  exact ⟨⟨s', t', hs', ht', hsdone, htdone, by rw [hsout, htout, hcore]⟩, hcore⟩

end Sys2Proof.Machine

/-! PROOFS. Family `43_control_operations.md`: what each micro-op does and leaves unchanged, and the edges that perform it
(R121 to R127), a start while busy (R128) and the completion of a computation (R129). -/

namespace Sys2Proof.Machine

/-! ## The registers and outputs, for each control pair (10_state.md R27, R28, R29, R34) -/

theorem readings_of_idle {s : State} (h : s.control = .idle) :
    s.fsm = .idle ∧ s.rc = 0 ∧ s.busy = false ∧ s.done = false := by
  simp [State.busy, State.done, State.fsm, State.rc, h]

theorem readings_of_run {s : State} {r : Fin 20} (h : s.control = .run r) :
    s.fsm = .run ∧ s.rc.toNat = r.val ∧ s.busy = true ∧ s.done = false := by
  simp [State.busy, State.done, State.fsm, State.rc, h]

theorem readings_of_ff {s : State} (h : s.control = .ff) :
    s.fsm = .ff ∧ s.rc = 20 ∧ s.busy = true ∧ s.done = false := by
  simp [State.busy, State.done, State.fsm, State.rc, h]

theorem readings_of_done {s : State} (h : s.control = .done) :
    s.fsm = .done ∧ s.rc = 20 ∧ s.done = true ∧ s.busy = false ∧ s.outBlock = serialize s.X := by
  simp [State.outBlock, State.busy, State.done, State.fsm, State.rc, h]

/-! ## Runs whose inputs are constrained -/

/-- A property that every edge keeps under a condition on its inputs is there after any number of edges whose inputs meet
the condition, and none of them is refused. -/
theorem runFor_of_step_under_inputs {P : State → Prop} {Q : Inputs → Prop}
    (hstep : ∀ s, P s → Q s.pins → ∃ t, step s = .next t ∧ P t) {n : Nat} {s : State} (hs : P s)
    (hin : ∀ j < n, Q (s.inputsAt j)) : ∃ t, runFor n s = .next t ∧ P t := by
  induction n generalizing s with
  | zero => exact ⟨s, rfl, hs⟩
  | succ n ih =>
    obtain ⟨u, hu, hPu⟩ := hstep s hs (hin 0 n.succ_pos)
    have hrest : ∀ j < n, Q (u.inputsAt j) := fun j hj => by
      rw [inputsAt_step hu]
      exact hin (j + 1) (Nat.succ_lt_succ hj)
    obtain ⟨t, ht, hPt⟩ := ih hPu hrest
    exact ⟨t, (runFor_succ_of_step hu n).trans ht, hPt⟩

/-! ## RESET and IDLE_HOLD (43_control_operations.md R121, R122) -/

theorem exec_idleHold (s : State) : exec .idleHold s = .next s := rfl

/-- The RESET edge: rst wins over everything else. -/
theorem step_of_rst {s : State} (h : s.pins.rst = true) :
    step s = .next ((loseVectors s).withControl .idle).advance :=
  step_of_caseSelect (by simp [caseSelect, h]) (exec_reset s)

/-- The IDLE_HOLD edge. -/
theorem step_idle_hold {s : State} (hf : s.fsm = .idle) (hrst : s.pins.rst = false) (hstart : s.pins.start = false) :
    step s = .next s.advance :=
  step_of_caseSelect (by simp [caseSelect, hrst, hstart, hf]) (exec_idleHold s)

/-- Without a start, every edge in IDLE ends in IDLE, be it RESET or IDLE_HOLD. -/
theorem step_idle_of_no_start (s : State) (hc : s.control = .idle) (hstart : s.pins.start = false) :
    ∃ t, step s = .next t ∧ t.control = .idle := by
  cases hrst : s.pins.rst with
  | true => exact ⟨_, step_of_rst hrst, rfl⟩
  | false => exact ⟨_, step_idle_hold (congrArg Control.fsm hc) hrst hstart, hc⟩

/-- The block waits in IDLE for a start. -/
theorem runFor_idle_of_no_start {n : Nat} {s : State} (hc : s.control = .idle)
    (hstart : ∀ j < n, (s.inputsAt j).start = false) : ∃ t, runFor n s = .next t ∧ t.control = .idle :=
  runFor_of_step_under_inputs (Q := (·.start = false)) step_idle_of_no_start hc hstart

/-- Settles O11: RESET leads to IDLE, and the block stays there as long as no start comes. -/
theorem resetMicroOp : Obligations.ResetMicroOp := by
  refine fun s => ⟨⟨_, exec_reset s, rfl, rfl, rfl, rfl⟩, fun hrst => ?_⟩
  obtain ⟨hfsm, hrc, hbusy, hdone⟩ :=
    readings_of_idle (s := ((loseVectors s).withControl .idle).advance) rfl
  refine ⟨_, step_of_rst hrst, hfsm, hrc, hbusy, hdone, fun n hstart => ?_⟩
  obtain ⟨u, hu, hc⟩ := runFor_idle_of_no_start rfl hstart
  exact ⟨u, hu, readings_of_idle hc⟩

/-- Settles O13: IDLE_HOLD answers its own state, and the edge that performs it keeps everything but the cycle's inputs. -/
theorem idleHoldMicroOp : Obligations.IdleHoldMicroOp := by
  refine ⟨exec_idleHold, fun s hf hrst hstart => ⟨step_idle_hold hf hrst hstart, rfl, rfl, rfl, ?_⟩⟩
  obtain ⟨hidle, -⟩ := control_eq_of_fsm s
  exact readings_of_idle (s := s.advance) (hidle hf)

/-! ## LOAD (43_control_operations.md R123) -/

/-- Settles O12: the words loaded are those of the two blocks, and `step_of_loadsNow` is the edge. -/
theorem loadMicroOp : Obligations.LoadMicroOp := by
  intro s
  obtain ⟨hscript, hcycle⟩ := exec_keeps_inputs (exec_load s)
  obtain ⟨hfsm, -, hbusy, hdone⟩ :=
    readings_of_run (s := (loadVectors s.loadWords s.loadConstants s).withControl (.run 0)) rfl
  refine ⟨_, exec_load s, fun i => ?_, rfl, hfsm, hscript, hcycle, hbusy, hdone, step_of_loadsNow⟩
  have hword (b : Block) : (deserialize b)[i] = le32 b i := deserialize_getElem b i.val i.isLt
  exact ⟨hword _, hword _, hword _⟩

/-! ## DONE_HOLD (43_control_operations.md R127) -/

theorem exec_doneHold (s : State) : exec .doneHold s = .next s := rfl

/-- The DONE_HOLD edge. -/
theorem step_done_hold {s : State} (hf : s.fsm = .done) (hrst : s.pins.rst = false) (hstart : s.pins.start = false) :
    step s = .next s.advance :=
  step_of_caseSelect (by simp [caseSelect, hrst, hstart, hf]) (exec_doneHold s)

/-- The state `t` is in DONE and holds the vectors of `s`. -/
def DoneWithVectorsOf (s t : State) : Prop :=
  t.control = .done ∧ t.X = s.X ∧ t.S = s.S ∧ t.K = s.K

/-- In DONE, as long as neither start nor rst comes, the block stays in DONE with its vectors. -/
theorem runFor_done_hold {n : Nat} {s : State} (hc : s.control = .done)
    (hin : ∀ j < n, (s.inputsAt j).rst = false ∧ (s.inputsAt j).start = false) :
    ∃ t, runFor n s = .next t ∧ DoneWithVectorsOf s t := by
  refine runFor_of_step_under_inputs (Q := fun p => p.rst = false ∧ p.start = false) ?_ ⟨hc, rfl, rfl, rfl⟩ hin
  rintro t ⟨hct, hvectors⟩ ⟨hrst, hstart⟩
  exact ⟨_, step_done_hold (congrArg Control.fsm hct) hrst hstart, hct, hvectors⟩

/-- Settles O14: DONE_HOLD answers its own state, so X, which out_block presents in DONE, is as it was. -/
theorem doneHoldMicroOp : Obligations.DoneHoldMicroOp := by
  refine ⟨exec_doneHold, fun s n hf hin => ?_⟩
  obtain ⟨-, -, hcontrol, -⟩ := control_eq_of_fsm s
  obtain ⟨t, ht, hc, hX, hS, hK⟩ := runFor_done_hold (hcontrol hf) hin
  obtain ⟨hfsm, hrc, hdone, hbusy, hout⟩ := readings_of_done hc
  exact ⟨t, ht, hfsm, hrc, hX, hS, hK, hdone, hbusy, hX ▸ hout⟩

/-! ## The rounds and the feed-forward (43_control_operations.md R124, R125, R126)

Each of the three writes X and then a control pair; it answers a next state because the pair is reachable. -/

/-- One round and the write of rc + 1 with a control state it is reachable in: what changes and what stays. -/
theorem round_of_reachable {s : State} {f : Fsm} (h : controlReachable f (s.rc + 1) = true) (round : Words → Words) :
    ∃ t, writeControl f (s.rc + 1) (applyRound round s) = .next t ∧ t.X = round s.X ∧ t.fsm = f ∧ t.rc = s.rc + 1 ∧
      t.S = s.S ∧ t.K = s.K ∧ t.script = s.script ∧ t.cycle = s.cycle := by
  obtain ⟨c, hc⟩ := Option.isSome_iff_exists.1 ((ofPair_isSome f (s.rc + 1)).trans h)
  obtain ⟨hf, hr⟩ := (ofPair_eq_some_iff f (s.rc + 1) c).1 hc
  exact ⟨_, (writeControl_eq_next_iff _ _ _ _).2 ⟨c, hf, hr, rfl⟩, by simp [hf, hr]⟩

/-- In RUN the round counter is 19 at most. -/
theorem rc_toNat_le_of_run {s : State} (hf : s.fsm = .run) : s.rc.toNat ≤ 19 := by
  obtain ⟨-, -, -, hrun⟩ := control_eq_of_fsm s
  obtain ⟨r, -, hr⟩ := hrun hf
  omega

/-- The selection in RUN, by the parity of rc (43_control_operations.md R120). -/
theorem caseSelect_of_fsm_run {s : State} (hf : s.fsm = .run) (hrst : s.pins.rst = false) :
    caseSelect s.selector = if s.rc.toNat % 2 = 0 then .colround else .diaground := by
  obtain ⟨-, -, -, hrun⟩ := control_eq_of_fsm s
  obtain ⟨r, hc, hr⟩ := hrun hf
  rw [hr]
  exact caseSelect_run hc hrst

theorem reachable_run_succ {r : BitVec 5} (h : r.toNat ≤ 18) : controlReachable .run (r + 1) = true :=
  decide_eq_true (show (r + 1).toNat < 20 by bv_omega)

/-- The pair that DIAGROUND writes is reachable: FF at rc = 19, and RUN with one round more before. -/
theorem reachable_after_diagonal {s : State} (hf : s.fsm = .run) :
    controlReachable (fsmAfterDiagonal s) (s.rc + 1) = true := by
  have hle := rc_toNat_le_of_run hf
  by_cases h19 : s.rc = 19
  · simp [fsmAfterDiagonal, h19, controlReachable]
  · have hne : s.rc.toNat ≠ 19 := fun h => h19 (BitVec.eq_of_toNat_eq h)
    rw [fsmAfterDiagonal, if_neg h19, hf]
    exact reachable_run_succ (by omega)

/-- Each lane of a column round reads the old vector (41_round_schedule.md R95). -/
theorem words_eq_lane_of_colRound {V W : Words} (hW : W = colRound V) {q : Quad} (hq : q ∈ colQ) :
    q.words W = q.lane V :=
  hW ▸ words_applyAll partitions_colQ.nodup hq V

/-- Each lane of a diagonal round reads the old vector (41_round_schedule.md R95). -/
theorem words_eq_lane_of_diagRound {V W : Words} (hW : W = diagRound V) {q : Quad} (hq : q ∈ diagQ) :
    q.words W = q.lane V :=
  hW ▸ words_applyAll partitions_diagQ.nodup hq V

/-- Settles O15: the pair written is (RUN, rc + 1), and the four lanes are those of the column table. -/
theorem columnRoundMicroOp : Obligations.ColumnRoundMicroOp := by
  intro s hf hrc
  obtain ⟨t, hexec, hX, hfsm, hrc', hS, hK, hscript, hcycle⟩ :=
    round_of_reachable (reachable_run_succ hrc) colRound
  replace hexec : exec .colround s = .next t := by rw [← hexec, ← hf]; rfl
  have hlane {q : Quad} (hq : q ∈ colQ) := words_eq_lane_of_colRound hX hq
  refine ⟨t, hexec, hlane (q := ⟨4, 8, 12, 0⟩) (by decide), hlane (q := ⟨9, 13, 1, 5⟩) (by decide),
    hlane (q := ⟨14, 2, 6, 10⟩) (by decide), hlane (q := ⟨3, 7, 11, 15⟩) (by decide), hX, hrc', hfsm.trans hf.symm,
    hS, hK, hscript, hcycle, ?_⟩
  intro heven hrst
  exact step_of_caseSelect (by rw [caseSelect_of_fsm_run hf hrst, if_pos heven]) hexec

/-- Settles O16: the pair written is (FF, 20) at rc = 19 and (RUN, rc + 1) before, and the four lanes are those of the
diagonal table. -/
theorem diagonalRoundMicroOp : Obligations.DiagonalRoundMicroOp := by
  intro s hf
  obtain ⟨t, hw, hX, hfsm, hrc, hS, hK, hscript, hcycle⟩ := round_of_reachable (reachable_after_diagonal hf) diagRound
  have hexec : exec .diaground s = .next t := hw
  have hlane {q : Quad} (hq : q ∈ diagQ) := words_eq_lane_of_diagRound hX hq
  refine ⟨t, hexec, hlane (q := ⟨1, 6, 11, 0⟩) (by decide), hlane (q := ⟨12, 5, 10, 15⟩) (by decide),
    hlane (q := ⟨2, 7, 8, 13⟩) (by decide), hlane (q := ⟨3, 4, 9, 14⟩) (by decide), hX, hrc, ?_, ?_, hS, hK,
    hscript, hcycle, ?_⟩
  · intro h
    have h19 : s.rc = 19 := BitVec.eq_of_toNat_eq h
    exact ⟨hfsm.trans (if_pos h19), hrc.trans (by rw [h19]; rfl)⟩
  · intro h
    exact hfsm.trans (if_neg fun h19 => h (congrArg BitVec.toNat h19))
  · intro hodd hrst
    exact step_of_caseSelect (by rw [caseSelect_of_fsm_run hf hrst, if_neg (by omega)]) hexec

/-- Settles O17: at rc = 20 the pair written is (DONE, 20), and X is the sum of the old vectors word by word. -/
theorem feedForwardMicroOp : Obligations.FeedForwardMicroOp := by
  intro s hrc
  have hexec : exec .feedfwd s = .next ((feedForward s).withControl .done) :=
    (writeControl_eq_next_iff _ _ _ _).2 ⟨.done, rfl, hrc.symm, rfl⟩
  obtain ⟨hscript, hcycle⟩ := exec_keeps_inputs hexec
  obtain ⟨hfsm, -, hdone, hbusy, hout⟩ := readings_of_done (s := (feedForward s).withControl .done) rfl
  refine ⟨_, hexec, toNat_accumulate s.S s.X, hfsm, hrc.symm, by simp, by simp, hscript, hcycle, hdone, hbusy, hout, ?_⟩
  intro hf hrst
  exact step_of_caseSelect (by simp [caseSelect, hrst, hf]) hexec

/-! ## A start while busy (43_control_operations.md R128) -/

/-- In RUN and FF the selection does not read start. -/
theorem caseSelect_start_ignored {c : Selector} (h : c.fsm = .run ∨ c.fsm = .ff) (b : Bool) :
    caseSelect { c with start := b } = caseSelect c := by
  obtain h | h := h <;> simp [caseSelect, h]

/-- Settles O35: the same micro-op is selected, it is not LOAD, and no other micro-op reads the pins. -/
theorem startWhileBusyIsIgnored : Obligations.StartWhileBusyIsIgnored := by
  intro s p rest hbusy
  have hsel (b : Bool) : caseSelect ({ s with script := { p with start := b } :: rest } : State).selector =
      caseSelect ⟨p.rst, false, s.fsm, s.rc⟩ :=
    caseSelect_start_ignored (c := ⟨p.rst, false, s.fsm, s.rc⟩) ((busy_eq_true_iff s).1 hbusy) b
  have hload : caseSelect ⟨p.rst, false, s.fsm, s.rc⟩ ≠ .load := fun h => by
    obtain ⟨-, hstart, -⟩ := (caseSelect_eq_load_iff _).1 h
    cases hstart
  rw [step_eq_retire_exec, step_eq_retire_exec, hsel, hsel]
  exact retire_exec_of_ne_load hload s _ _ rest

/-! ## Completion (43_control_operations.md R129) -/

/-- Settles O32: the states of one computation, by `runFor_load_run`, `runFor_load_ff` and `runFor_load_done`. -/
theorem completionAfterTwentyTwoEdges : Obligations.CompletionAfterTwentyTwoEdges := by
  intro s hs hn
  refine ⟨fun r hr => ?_, ?_, ?_⟩
  · obtain ⟨u, hu, hc, -, hX⟩ := runFor_load_run hs hn r (by omega)
    obtain ⟨hfsm, hrc, hbusy, hdone⟩ := readings_of_run hc
    exact ⟨u, hu, hfsm, hrc, hX, hbusy, hdone⟩
  · obtain ⟨u, hu, hc, -, hX⟩ := runFor_load_ff hs hn
    obtain ⟨hfsm, hrc, hbusy, hdone⟩ := readings_of_ff hc
    exact ⟨u, hu, hfsm, hrc, hX, hbusy, hdone⟩
  · obtain ⟨u, hu, hc, -, hX⟩ := runFor_load_done hs hn
    obtain ⟨hfsm, hrc, hdone, hbusy, -⟩ := readings_of_done hc
    exact ⟨u, hu, hfsm, hrc, hX, hdone, hbusy, outBlock_of_done hc hX⟩

end Sys2Proof.Machine

/-! PROOFS. Family `60_exceptions.md`: the priority of simultaneous events (R142). -/

namespace Sys2Proof.Machine

/-! ## The micro-op selected, for each kind of event -/

theorem caseSelect_of_rst {c : Selector} (hrst : c.rst = true) : caseSelect c = .reset := by
  simp [caseSelect, hrst]

theorem caseSelect_of_idle {c : Selector} (hrst : c.rst = false) (hf : c.fsm = .idle) :
    caseSelect c = if c.start then .load else .idleHold := by
  simp [caseSelect, hrst, hf]

theorem caseSelect_of_done {c : Selector} (hrst : c.rst = false) (hf : c.fsm = .done) :
    caseSelect c = if c.start then .load else .doneHold := by
  simp [caseSelect, hrst, hf]

/-- In RUN, bit 0 of rc is its parity, and start is not read; this holds of every rc, the unreachable ones included. -/
theorem caseSelect_of_run {c : Selector} (hrst : c.rst = false) (hf : c.fsm = .run) :
    caseSelect c = if c.rc.toNat % 2 = 0 then .colround else .diaground := by
  have hbit : c.rc.getLsbD 0 = decide (c.rc.toNat % 2 = 1) := Nat.testBit_zero _
  obtain hpar | hpar := Nat.mod_two_eq_zero_or_one c.rc.toNat <;>
    simp [caseSelect, hrst, hf, hbit, hpar, -BitVec.getLsbD_eq_getElem]

theorem caseSelect_of_ff {c : Selector} (hrst : c.rst = false) (hf : c.fsm = .ff) : caseSelect c = .feedfwd := by
  simp [caseSelect, hrst, hf]

/-- Settles O2: the decode table selects as the `case` does, and the `case` follows the priority, event by event. -/
theorem priorityOfSimultaneousEvents : Obligations.PriorityOfSimultaneousEvents := by
  intro c
  rw [decodeCS_bits]
  refine ⟨rfl, caseSelect_of_rst, fun hrst => ?_, ?_⟩
  · exact ⟨caseSelect_of_idle hrst, caseSelect_of_done hrst, caseSelect_of_run hrst, caseSelect_of_ff hrst⟩
  · rintro s rfl
    exact step_eq_retire_exec s

end Sys2Proof.Machine

/-! PROOFS. Family `70_reset_and_hazards.md`: the block waits for start after reset (R161), and start held high runs
computations back to back (R169). -/

namespace Sys2Proof.Machine

/-! ## After reset (70_reset_and_hazards.md R161) -/

/-- Settles O9: reset leaves the pair (IDLE, 0), in which the block waits for a start under any script. -/
theorem resetStateWaitsForStart : Obligations.ResetStateWaitsForStart := by
  obtain ⟨hfsm, hrc, hbusy, hdone⟩ := readings_of_idle (s := State.reset) rfl
  refine ⟨hfsm, hrc, hbusy, hdone, fun script n hstart => ?_⟩
  obtain ⟨t, ht, hc⟩ := runFor_idle_of_no_start rfl hstart
  exact ⟨t, ht, readings_of_idle hc⟩

/-! ## Start held high (70_reset_and_hazards.md R169)

With start held high, each edge moves the control pair one place on around a ring of 22 places. -/

/-- The place of a control pair in the ring: the cycles since the last LOAD edge while busy, and 0 where the next LOAD is
due. -/
def Control.loadPhase : Control → Nat
  | .idle | .done => 0
  | .run r        => r.val + 1
  | .ff           => 21

/-- A start is heard exactly at place 0 of the ring. -/
theorem loadPhase_eq_zero_iff (s : State) : s.control.loadPhase = 0 ↔ s.fsm = .idle ∨ s.fsm = .done := by
  cases h : s.control <;> simp [Control.loadPhase, State.fsm, h]

/-- With start high, an edge moves one place on around the ring, and not to IDLE. -/
theorem step_start_held {s : State} (hrst : s.pins.rst = false) (hstart : s.pins.start = true) :
    ∃ t, step s = .next t ∧ t.control.loadPhase = (s.control.loadPhase + 1) % 22 ∧ t.fsm ≠ .idle := by
  cases hc : s.control with
  | idle => exact ⟨_, step_of_loadsNow ⟨hrst, hstart, .inl (congrArg Control.fsm hc)⟩, rfl, nofun⟩
  | done => exact ⟨_, step_of_loadsNow ⟨hrst, hstart, .inr (congrArg Control.fsm hc)⟩, rfl, nofun⟩
  | ff => exact ⟨_, step_ff hc hrst, rfl, nofun⟩
  | run r =>
    obtain hlt | rfl : r.val < 19 ∨ r = 19 := by omega
    · refine ⟨_, step_run hc hlt hrst, ?_, nofun⟩
      simp only [advance_control, withControl_control, Control.loadPhase]
      omega
    · exact ⟨_, step_run_last hc hrst, rfl, nofun⟩

/-- With start held high from place 0 on, the place after `n` edges is `n` mod 22, and IDLE does not come back. -/
theorem runFor_start_held {s : State} {n : Nat} (hs : s.control.loadPhase = 0)
    (hin : ∀ j < n, (s.inputsAt j).rst = false ∧ (s.inputsAt j).start = true) :
    ∃ u, runFor n s = .next u ∧ u.control.loadPhase = n % 22 ∧ (0 < n → u.fsm ≠ .idle) := by
  induction n with
  | zero => exact ⟨s, rfl, hs, nofun⟩
  | succ n ih =>
    obtain ⟨u, hu, hphase, -⟩ := ih fun j hj => hin j (Nat.lt_succ_of_lt hj)
    obtain ⟨hrst, hstart⟩ : u.pins.rst = false ∧ u.pins.start = true := by
      rw [State.pins, inputsAt_runFor hu]
      exact hin n n.lt_succ_self
    obtain ⟨t, ht, htphase, hidle⟩ := step_start_held hrst hstart
    exact ⟨t, (runFor_snoc_eq_next_iff n s t).2 ⟨u, hu, ht⟩, by omega, fun _ => hidle⟩

/-- With start held high from a LOAD on, the edges with a LOAD and the cycles with done = 1 are those at the multiples of
22. -/
theorem runFor_start_held_loads_done {s : State} {n : Nat} (hs : LoadsNow s)
    (hin : ∀ j ≤ n, (s.inputsAt j).rst = false ∧ (s.inputsAt j).start = true) :
    ∃ u, runFor n s = .next u ∧ (LoadsNow u ↔ n % 22 = 0) ∧ (0 < n → (u.done = true ↔ n % 22 = 0)) := by
  obtain ⟨-, -, hfsm⟩ := hs
  obtain ⟨u, hu, hphase, hidle⟩ :=
    runFor_start_held ((loadPhase_eq_zero_iff s).2 hfsm) fun j hj => hin j (Nat.le_of_lt hj)
  obtain ⟨hrst, hstart⟩ : u.pins.rst = false ∧ u.pins.start = true := by
    rw [State.pins, inputsAt_runFor hu]
    exact hin n le_rfl
  rw [← hphase, loadPhase_eq_zero_iff]
  exact ⟨u, hu, by simp [LoadsNow, hrst, hstart], fun hn => by simp [done_eq_true_iff, hidle hn]⟩

/-- Settles O34: at a multiple of 22 the edge 22 cycles earlier performed a LOAD too, and its computation has just ended. -/
theorem startHeldHighRunsBackToBack : Obligations.StartHeldHighRunsBackToBack := by
  intro s n hs hin
  obtain ⟨u, hu, hloads, hdone⟩ := runFor_start_held_loads_done hs hin
  refine ⟨u, hu, hloads, hdone, fun hpos hmod => ?_⟩
  obtain ⟨m, rfl⟩ : ∃ m, n = m + 22 := ⟨n - 22, by omega⟩
  obtain ⟨v, hv, hvloads, -⟩ := runFor_start_held_loads_done (n := m) hs fun j hj => hin j (by omega)
  have hrst : NoResetAfter v 21 := fun j hj => by
    rw [inputsAt_runFor hv]
    exact (hin _ (by omega)).1
  obtain ⟨w, hw, -, hout⟩ := runFor_load_outBlock (hvloads.2 (by omega)) hrst (s.inputsAt m).constBlock
  obtain rfl : w = u := by
    have hrun := hu.symm.trans ((runFor_add m 22 s w).2 ⟨v, hv, hw⟩)
    exact (Host.Outcome.next.inj hrun).symm
  rw [hout, State.pins, inputsAt_runFor hv, Nat.add_zero, Nat.add_sub_cancel]

end Sys2Proof.Machine

/-! PROOFS. Family `other`: CS as bytes (log 7), what one edge can do and what every edge keeps (43_control_operations.md
R120; 10_state.md R21, R22, R23, R31), the last LOAD of a run (43_control_operations.md R130; 20_memory.md R51), refusals
(log 6, log 12), placed selectors (log 8) and the named blocks (30_encoding.md R71). -/

namespace Sys2Proof.Machine

/-! ## A CS value as two bytes (log 7) -/

/-- The two bytes that hold a CS value, the low one first. -/
def csBytes (cs : BitVec 9) : List Byte := [cs.extractLsb' 0 8, (cs.extractLsb' 8 1).zeroExtend 8]

theorem encode_eq_csBytes (i : Instr) (free : BitVec 9) : encode i free = csBytes (encodeCS i free) := rfl

/-- A high byte without stray bits is the bit CS[8]. -/
theorem zeroExtend_extractLsb'_zero_one {hi : Byte} (h : hi.toNat < 2) : (hi.extractLsb' 0 1).zeroExtend 8 = hi := by
  apply BitVec.eq_of_toNat_eq
  simp only [BitVec.truncate_eq_setWidth, BitVec.toNat_setWidth, BitVec.extractLsb'_toNat, Nat.shiftRight_zero]
  omega

/-- Two bytes without stray bits are those of the CS value that the decoder reads. -/
theorem csBytes_append {lo hi : Byte} (h : hi.toNat < 2) : csBytes (hi.extractLsb' 0 1 ++ lo) = [lo, hi] := by
  have hlo : (hi.extractLsb' 0 1 ++ lo).extractLsb' 0 8 = lo := BitVec.extractLsb'_append_eq_right
  have hhi : (hi.extractLsb' 0 1 ++ lo).extractLsb' 8 1 = hi.extractLsb' 0 1 := BitVec.extractLsb'_append_eq_left
  rw [csBytes, hlo, hhi, zeroExtend_extractLsb'_zero_one h]

theorem decode_csBytes (cs : BitVec 9) : decode (csBytes cs) = .ok (decodeCS cs) := by
  have hhi : ((cs.extractLsb' 8 1).zeroExtend 8).toNat < 2 := by
    have := (cs.extractLsb' 8 1).isLt
    simp only [BitVec.truncate_eq_setWidth, BitVec.toNat_setWidth]
    omega
  have hbits : ((cs.extractLsb' 8 1).zeroExtend 8).extractLsb' 0 1 = cs.extractLsb' 8 1 := by
    ext j hj
    obtain rfl : j = 0 := by omega
    simp
  have hcs : cs.extractLsb' 8 1 ++ cs.extractLsb' 0 8 = cs := by
    rw [BitVec.extractLsb'_append_extractLsb'_eq_extractLsb' (Nat.zero_add 8).symm, BitVec.extractLsb'_eq_self]
  rw [csBytes, decode, if_pos hhi, hbits, hcs]

/-- The lists of bytes that decode are those of the CS values. -/
theorem decode_eq_ok_iff (bytes : List Byte) (i : Instr) :
    decode bytes = .ok i ↔ ∃ cs, bytes = csBytes cs ∧ decodeCS cs = i := by
  constructor
  · intro h
    unfold decode at h
    split at h
    · next lo hi =>
      split at h
      · next hhi => exact ⟨_, (csBytes_append hhi).symm, Except.ok.inj h⟩
      · cases h
    · cases h
  · rintro ⟨cs, rfl, rfl⟩
    exact decode_csBytes cs

/-- Settles O4: the bytes that decode are those of the CS values of the micro-op's row, and each such value encodes the
micro-op with its own bits for the pattern letters. -/
theorem decodeIsInverseOfEncode : Obligations.DecodeIsInverseOfEncode := by
  intro bytes i
  rw [decode_eq_ok_iff]
  constructor
  · rintro ⟨cs, rfl, rfl⟩
    exact ⟨cs, by rw [encode_eq_csBytes, encodeCS_of_admits (admits_decodeCS cs)]⟩
  · rintro ⟨free, rfl⟩
    exact ⟨encodeCS i free, encode_eq_csBytes i free, decodeCS_encodeCS i free⟩

/-- Settles O5: each word lies in the row of its micro-op. -/
theorem decodeSanityWords : Obligations.DecodeSanityWords := by
  simp only [Obligations.DecodeSanityWords, decodeCS_eq_iff]
  decide

/-! ## The control registers, read off one register -/

theorem control_eq_idle_iff (s : State) : s.control = .idle ↔ s.fsm = .idle := by
  obtain ⟨hidle, -⟩ := control_eq_of_fsm s
  exact ⟨congrArg Control.fsm, hidle⟩

theorem control_eq_done_iff (s : State) : s.control = .done ↔ s.done = true := by
  obtain ⟨-, -, hdone, -⟩ := control_eq_of_fsm s
  rw [done_eq_true_iff]
  exact ⟨congrArg Control.fsm, hdone⟩

/-- The registers fsm and rc determine the control registers' value. -/
theorem control_eq_of_fsm_rc_eq {s t : State} (hf : s.fsm = t.fsm) (hr : s.rc = t.rc) : s.control = t.control := by
  apply Option.some.inj
  rw [← ofPair_fsm_rc s.control, ← ofPair_fsm_rc t.control]
  exact congrArg₂ Control.ofPair hf hr

/-! ## What one edge can do (43_control_operations.md R120 to R127) -/

/-- The edges of a state, one constructor per effect: `Edge s t` says that the edge of `s` leads to `t`. -/
inductive Edge (s : State) : State → Prop where
  | reset (hrst : s.pins.rst = true) : Edge s ((loseVectors s).withControl .idle).advance
  | load (hload : LoadsNow s) : Edge s ((loadVectors s.loadWords s.loadConstants s).withControl (.run 0)).advance
  | hold (hrst : s.pins.rst = false) (hstart : s.pins.start = false) (hc : s.control = .idle ∨ s.control = .done) :
      Edge s s.advance
  | round (hrst : s.pins.rst = false) (r : Fin 20) (hc : s.control = .run r) (hr : r.val < 19) :
      Edge s ((applyRound (roundAt r.val) s).withControl (.run ⟨r.val + 1, by omega⟩)).advance
  | lastRound (hrst : s.pins.rst = false) (hc : s.control = .run 19) :
      Edge s ((applyRound (roundAt 19) s).withControl .ff).advance
  | feedForward (hrst : s.pins.rst = false) (hc : s.control = .ff) :
      Edge s ((feedForward s).withControl .done).advance

theorem Edge.step_eq {s t : State} (h : Edge s t) : step s = .next t := by
  cases h with
  | reset hrst => exact step_of_rst hrst
  | load hload => exact step_of_loadsNow hload
  | hold hrst hstart hc =>
    obtain hc | hc := hc
    · exact step_idle_hold (congrArg Control.fsm hc) hrst hstart
    · exact step_done_hold (congrArg Control.fsm hc) hrst hstart
  | round hrst r hc hr => exact step_run hc hr hrst
  | lastRound hrst hc => exact step_run_last hc hrst
  | feedForward hrst hc => exact step_ff hc hrst

/-- The edge in IDLE or DONE with rst = 0 is a LOAD or a hold. -/
theorem exists_edge_of_waiting {s : State} (hrst : s.pins.rst = false) (hc : s.control = .idle ∨ s.control = .done) :
    ∃ t, Edge s t := by
  cases hstart : s.pins.start with
  | true => exact ⟨_, .load ⟨hrst, hstart, hc.imp (congrArg Control.fsm) (congrArg Control.fsm)⟩⟩
  | false => exact ⟨_, .hold hrst hstart hc⟩

/-- Every state has an edge: the step is total. -/
theorem exists_edge (s : State) : ∃ t, Edge s t := by
  cases hrst : s.pins.rst with
  | true => exact ⟨_, .reset hrst⟩
  | false =>
    cases hc : s.control with
    | idle => exact exists_edge_of_waiting hrst (.inl hc)
    | done => exact exists_edge_of_waiting hrst (.inr hc)
    | ff => exact ⟨_, .feedForward hrst hc⟩
    | run r =>
      obtain hr | rfl : r.val < 19 ∨ r = 19 := by omega
      · exact ⟨_, .round hrst r hc hr⟩
      · exact ⟨_, .lastRound hrst hc⟩

theorem step_total (s : State) : ∃ t, step s = .next t :=
  (exists_edge s).imp fun _ => Edge.step_eq

theorem edge_of_step {s t : State} (h : step s = .next t) : Edge s t := by
  obtain ⟨u, hu⟩ := exists_edge s
  obtain rfl : u = t := Host.Outcome.next.inj (hu.step_eq.symm.trans h)
  exact hu

/-- Settles O28: the step is total, and no state holds another pair. -/
theorem reachableControlIsKept : Obligations.ReachableControlIsKept := by
  intro s
  obtain ⟨t, ht⟩ := step_total s
  exact ⟨controlOk s, t, ht, controlOk t⟩

/-- Settles O6: the step is total, it is exec of the decoded micro-op, and no micro-op touches script and cycle. -/
theorem stepRunsTheSelectedMicroOp : Obligations.StepRunsTheSelectedMicroOp := by
  intro s
  obtain ⟨t, ht⟩ := step_total s
  obtain ⟨u, hu, rfl⟩ := (step_eq_next_iff s t).1 ht
  obtain ⟨hscript, hcycle⟩ := exec_keeps_inputs hu
  exact ⟨u, _, hu, ht, rfl, rfl, rfl, rfl, rfl, by simp [hscript], by simp [hcycle], inputsAt_step ht⟩

/-! ## The data invariant (43_control_operations.md R129) -/

theorem dataOk_of_idle {s : State} (h : s.control = .idle) : DataOk s := by
  simp [DataOk, h]

theorem dataOk_of_run {s : State} {r : Fin 20} (h : s.control = .run r) : DataOk s ↔ s.X = rounds r.val s.S := by
  simp [DataOk, h]

theorem dataOk_of_ff {s : State} (h : s.control = .ff) : DataOk s ↔ s.X = permute20 s.S := by
  simp [DataOk, h]

theorem dataOk_of_done {s : State} (h : s.control = .done) : DataOk s ↔ s.X = accumulate s.S (permute20 s.S) := by
  simp [DataOk, h]

theorem Edge.dataOk {s t : State} (h : Edge s t) (hs : DataOk s) : DataOk t := by
  cases h with
  | reset => exact dataOk_of_idle rfl
  | load => exact (dataOk_of_run (r := 0) rfl).2 (by simp)
  | hold => exact hs
  | round _ r hc _ =>
    rw [dataOk_of_run hc] at hs
    refine (dataOk_of_run (r := ⟨r.val + 1, by omega⟩) rfl).2 ?_
    simp [hs]
  | lastRound _ hc =>
    rw [dataOk_of_run hc] at hs
    refine (dataOk_of_ff rfl).2 ?_
    simp [hs, permute20, nRounds]
  | feedForward _ hc =>
    rw [dataOk_of_ff hc] at hs
    refine (dataOk_of_done rfl).2 ?_
    simp [hs]

/-- Settles O30: each edge adds the one round, or the feed-forward, that its next pair asks for. -/
theorem dataInvariantIsKept : Obligations.DataInvariantIsKept :=
  fun _ _ hs h => (edge_of_step h).dataOk hs

/-- Settles O31: reset leaves IDLE, where nothing is asked of the data. -/
theorem invariantHoldsAtReset : Obligations.InvariantHoldsAtReset := dataOk_of_idle rfl

/-! ## What writes X, S and K (10_state.md R21, R22, R23) -/

/-- Settles O37: only RESET and LOAD write S and K; the rounds and the feed-forward write X, while busy = 1. -/
theorem snapshotIsImmutable : Obligations.SnapshotIsImmutable := by
  intro s t h hrst hload
  cases edge_of_step h with
  | reset hrst' => simp [hrst'] at hrst
  | load hload' => exact absurd hload' hload
  | hold => exact ⟨rfl, rfl, fun _ => rfl⟩
  | round _ _ hc _ | lastRound _ hc =>
    obtain ⟨-, -, hbusy, -⟩ := readings_of_run hc
    simp [hbusy]
  | feedForward _ hc =>
    obtain ⟨-, -, hbusy, -⟩ := readings_of_ff hc
    simp [hbusy]

/-! ## The constants are not observed (10_state.md R23, R31) -/

/-- Two states agree in what the constants cannot reach: the control pair and, once words are loaded, X and S. -/
def SameComputation (s t : State) : Prop :=
  s.control = t.control ∧ (s.control ≠ .idle → s.X = t.X ∧ s.S = t.S)

theorem sameButConstants_iff (s t : State) :
    SameButConstants s t ↔ SameComputation s t ∧ ∀ j, AgreeButConstants (s.inputsAt j) (t.inputsAt j) := by
  rw [SameButConstants, SameComputation, ne_eq, ne_eq, control_eq_idle_iff]
  constructor
  · rintro ⟨hf, hr, hXS, hin⟩
    exact ⟨⟨control_eq_of_fsm_rc_eq hf hr, hXS⟩, hin⟩
  · rintro ⟨⟨hc, hXS⟩, hin⟩
    exact ⟨congrArg Control.fsm hc, congrArg Control.rc hc, hXS, hin⟩

/-- The same control pair is written at the end of both cycles, and the vectors agree. -/
theorem sameComputation_of_write {s t : State} (c : Control) (hX : s.X = t.X) (hS : s.S = t.S) :
    SameComputation (s.withControl c).advance (t.withControl c).advance :=
  ⟨rfl, fun _ => ⟨hX, hS⟩⟩

/-- Two such states with the same pins but for the constants have the same kind of edge, to such states again. -/
theorem Edge.sameComputation {s s' t : State} (h : Edge s s') (hst : SameComputation s t)
    (hpins : AgreeButConstants s.pins t.pins) : ∃ t', Edge t t' ∧ SameComputation s' t' := by
  obtain ⟨hcontrol, hXS⟩ := hst
  obtain ⟨hrst', hstart', hin⟩ := hpins
  cases h with
  | reset hrst => exact ⟨_, .reset (hrst' ▸ hrst), rfl, fun h => absurd rfl h⟩
  | load hload =>
    obtain ⟨hrst, hstart, hf⟩ := hload
    have hfsm : s.fsm = t.fsm := congrArg Control.fsm hcontrol
    have hwords : s.loadWords = t.loadWords := congrArg deserialize hin
    refine ⟨_, .load ⟨hrst' ▸ hrst, hstart' ▸ hstart, hfsm ▸ hf⟩, ?_⟩
    exact sameComputation_of_write _ (by simp [hwords]) (by simp [hwords])
  | hold hrst hstart hc => exact ⟨_, .hold (hrst' ▸ hrst) (hstart' ▸ hstart) (hcontrol ▸ hc), hcontrol, hXS⟩
  | round hrst r hc hr =>
    obtain ⟨hX, hS⟩ := hXS (by simp [hc])
    refine ⟨_, .round (hrst' ▸ hrst) r (hcontrol ▸ hc) hr, ?_⟩
    exact sameComputation_of_write _ (by simp [hX]) (by simp [hS])
  | lastRound hrst hc =>
    obtain ⟨hX, hS⟩ := hXS (by simp [hc])
    refine ⟨_, .lastRound (hrst' ▸ hrst) (hcontrol ▸ hc), ?_⟩
    exact sameComputation_of_write _ (by simp [hX]) (by simp [hS])
  | feedForward hrst hc =>
    obtain ⟨hX, hS⟩ := hXS (by simp [hc])
    refine ⟨_, .feedForward (hrst' ▸ hrst) (hcontrol ▸ hc), ?_⟩
    exact sameComputation_of_write _ (by simp [hX, hS]) (by simp [hS])

/-- Such states show the same. -/
theorem SameComputation.outputs_eq {s t : State} (h : SameComputation s t) :
    s.busy = t.busy ∧ s.done = t.done ∧ (s.done = true → s.outBlock = t.outBlock) := by
  obtain ⟨hcontrol, hXS⟩ := h
  have hf : s.fsm = t.fsm := congrArg Control.fsm hcontrol
  refine ⟨by rw [State.busy, State.busy, hf], by rw [State.done, State.done, hf], fun hdone => ?_⟩
  have hs : s.control = .done := (control_eq_done_iff s).2 hdone
  obtain ⟨-, -, -, -, houts⟩ := readings_of_done hs
  obtain ⟨-, -, -, -, houtt⟩ := readings_of_done (hcontrol ▸ hs)
  obtain ⟨hX, -⟩ := hXS (by simp [hs])
  rw [houts, houtt, hX]

/-- Settles O38: the two edges are of one kind and keep the relation, and related states show the same. -/
theorem constantsAreNeverObserved : Obligations.ConstantsAreNeverObserved := by
  intro s t h
  obtain ⟨hst, hin⟩ := (sameButConstants_iff s t).1 h
  obtain ⟨s', hs'⟩ := exists_edge s
  obtain ⟨t', ht', hst'⟩ := hs'.sameComputation hst (hin 0)
  refine ⟨s', t', hs'.step_eq, ht'.step_eq, (sameButConstants_iff s' t').2 ⟨hst', fun j => ?_⟩, hst'.outputs_eq⟩
  rw [inputsAt_step hs'.step_eq, inputsAt_step ht'.step_eq]
  exact hin (j + 1)

/-! ## The last LOAD of a run (43_control_operations.md R130; 20_memory.md R51) -/

/-- The edges since the last LOAD that a control pair shows, its own edge included: 22 in DONE stands for 22 or more, 0 in
IDLE for no LOAD. -/
def Control.edgesSinceLoad : Control → Nat
  | .idle  => 0
  | .run r => r.val + 1
  | .ff    => 21
  | .done  => latency

theorem edgesSinceLoad_eq_zero_iff (c : Control) : c.edgesSinceLoad = 0 ↔ c = .idle := by
  cases c <;> simp [Control.edgesSinceLoad, latency]

theorem edgesSinceLoad_eq_latency_iff (c : Control) : c.edgesSinceLoad = latency ↔ c = .done := by
  cases c with
  | run r => simp [Control.edgesSinceLoad, latency]; omega
  | idle | ff | done => simp [Control.edgesSinceLoad, latency]

/-- With neither RESET nor LOAD, the block stays in IDLE. -/
theorem Edge.control_idle {s t : State} (h : Edge s t) (hload : ¬LoadsNow s) (hc : s.control = .idle) :
    t.control = .idle := by
  cases h with
  | reset => rfl
  | load hload' => exact absurd hload' hload
  | hold => exact hc
  | round _ r hc' _ => simp [hc'] at hc
  | lastRound _ hc' | feedForward _ hc' => simp [hc'] at hc

/-- With neither RESET nor LOAD, a computation is one edge older, up to DONE. -/
theorem Edge.edgesSinceLoad {s t : State} (h : Edge s t) (hrst : s.pins.rst = false) (hload : ¬LoadsNow s)
    (hc : s.control ≠ .idle) : t.control.edgesSinceLoad = min (s.control.edgesSinceLoad + 1) latency := by
  cases h with
  | reset hrst' => simp [hrst'] at hrst
  | load hload' => exact absurd hload' hload
  | hold _ _ hc' => simp [hc'.resolve_left hc, Control.edgesSinceLoad]
  | round _ r hc' hr =>
    simp only [advance_control, withControl_control, hc', Control.edgesSinceLoad, latency]
    omega
  | lastRound _ hc' | feedForward _ hc' => rw [hc']; rfl

/-- `t` comes `k` edges after `u`, whose edge is the last LOAD, with no reset since and no start once done. -/
structure LoadedFrom (u t : State) (k : Nat) : Prop where
  run     : runFor k u = .next t
  loads   : LoadsNow u
  noReset : NoResetAfter u (k - 1)
  noStart : ∀ j, latency ≤ j → j < k → (u.inputsAt j).start = false
  age     : t.control.edgesSinceLoad = min k latency
  words   : t.S = u.loadWords

theorem loadedFrom_of_load {u t : State} (hu : LoadsNow u) (h : step u = .next t) : LoadedFrom u t 1 := by
  refine ⟨runFor_succ_of_step h 0, hu, nofun, fun j hj hj1 => ?_, ?_, ?_⟩
  · simp only [latency] at hj; omega
  · obtain rfl := Host.Outcome.next.inj ((step_of_loadsNow hu).symm.trans h)
    rfl
  · obtain rfl := Host.Outcome.next.inj ((step_of_loadsNow hu).symm.trans h)
    rfl

/-- An edge with neither RESET nor LOAD goes on with the computation or holds its result. -/
theorem LoadedFrom.succ {u t t' : State} {k : Nat} (h : LoadedFrom u t k) (ht : step t = .next t')
    (hrst : t.pins.rst = false) (hload : ¬LoadsNow t) (hc : t.control ≠ .idle) : LoadedFrom u t' (k + 1) := by
  have hpins : u.inputsAt k = t.pins := (inputsAt_runFor h.run 0).symm
  have hage := h.age
  have hk : 0 < k := by
    have := (edgesSinceLoad_eq_zero_iff t.control).not.2 hc
    omega
  refine ⟨(runFor_snoc_eq_next_iff _ _ _).2 ⟨t, h.run, ht⟩, h.loads, fun j hj => ?_, fun j hj hjk => ?_, ?_, ?_⟩
  · obtain hj | hj : j < k - 1 ∨ j + 1 = k := by omega
    · exact h.noReset j hj
    · rw [hj, hpins, hrst]
  · obtain hjk | rfl : j < k ∨ j = k := by omega
    · exact h.noStart j hj hjk
    · have hdone : t.control = .done := (edgesSinceLoad_eq_latency_iff _).1 (by omega)
      rw [hpins, ← Bool.not_eq_true]
      exact fun hstart => hload ⟨hrst, hstart, .inr (congrArg Control.fsm hdone)⟩
  · rw [(edge_of_step ht).edgesSinceLoad hrst hload hc]
    omega
  · obtain ⟨hS, -⟩ := snapshotIsImmutable t t' ht hrst hload
    rw [hS, h.words]

/-- A run from IDLE is in IDLE or comes from a LOAD: each edge resets, loads, waits or goes on. -/
theorem idle_or_loadedFrom {n : Nat} {s t : State} (hs : s.control = .idle) (h : runFor n s = .next t) :
    t.control = .idle ∨ ∃ m k u, n = m + k ∧ runFor m s = .next u ∧ LoadedFrom u t k := by
  induction n generalizing t with
  | zero => cases h; exact .inl hs
  | succ n ih =>
    obtain ⟨v, hv, ht⟩ := (runFor_snoc_eq_next_iff n s t).1 h
    cases hrst : v.pins.rst with
    | true =>
      obtain rfl := Host.Outcome.next.inj ((step_of_rst hrst).symm.trans ht)
      exact .inl rfl
    | false =>
      by_cases hload : LoadsNow v
      · exact .inr ⟨n, 1, v, rfl, hv, loadedFrom_of_load hload ht⟩
      by_cases hc : v.control = .idle
      · exact .inl ((edge_of_step ht).control_idle hload hc)
      · obtain ⟨m, k, u, rfl, hu, hk⟩ := (ih hv).resolve_left hc
        exact .inr ⟨m, k + 1, u, rfl, hu, hk.succ ht hrst hload hc⟩

/-- Settles O33: a done state comes from a LOAD, 22 edges or more before, and by the data invariant X is the result on the
words loaded there. -/
theorem donePresentsTheLastLoad : Obligations.DonePresentsTheLastLoad := by
  intro s n t hidle hrun hdone
  have hs : s.control = .idle := (control_eq_idle_iff s).2 hidle
  have ht : t.control = .done := (control_eq_done_iff t).2 hdone
  obtain ⟨m, k, u, rfl, hu, h⟩ := (idle_or_loadedFrom hs hrun).resolve_left (by simp [ht])
  have hk : latency ≤ k := by
    have hage := h.age
    rw [(edgesSinceLoad_eq_latency_iff _).2 ht] at hage
    omega
  have hX : t.X = accumulate t.S (permute20 t.S) :=
    (dataOk_of_done ht).1 (runFor_keeps dataInvariantIsKept (dataOk_of_idle hs) hrun)
  rw [h.words] at hX
  have hcount : m + k - m = k := Nat.add_sub_cancel_left m k
  refine ⟨m, u, by omega, hu, h.loads, ?_, ?_, outBlock_of_done ht hX⟩
  · rw [hcount]; exact h.noReset
  · rw [hcount]; exact h.noStart

/-! ## Refusals (log 6, log 12) -/

theorem selectMicroOp_refused {c : Selector} (hrst : c.rst = false) (h : controlReachable c.fsm c.rc = false) :
    selectMicroOp c = .error (.unreachableControl c.fsm c.rc) := by
  simp [selectMicroOp, Selector.wf, hrst, h]

/-- Settles O7: the pair is unreachable, so no state holds it, and both the selection and the write refuse it. -/
theorem unreachableControlIsRefused : Obligations.UnreachableControlIsRefused := by
  intro f r h
  rw [← controlReachable_eq_true_iff, Bool.not_eq_true] at h
  refine ⟨?_, fun start => selectMicroOp_refused rfl h, writeControl_refused h⟩
  rintro s ⟨rfl, rfl⟩
  simp [controlOk s] at h

/-- One round more leaves the reachable pairs, except in RUN before the last round. -/
theorem not_reachable_succ {s : State} (h : ¬(s.fsm = .run ∧ s.rc.toNat ≤ 18)) :
    controlReachable s.fsm (s.rc + 1) = false := by
  cases hc : s.control with
  | idle | ff | done => rw [State.fsm, State.rc, hc]; decide
  | run r =>
    obtain ⟨hf, hr, -⟩ := readings_of_run hc
    have hlast : s.rc = 19 := BitVec.eq_of_toNat_eq (show s.rc.toNat = 19 by simp [hf] at h; omega)
    rw [hf, hlast]
    decide

theorem fsmAfterDiagonal_of_not_run {s : State} (h : s.fsm ≠ .run) : fsmAfterDiagonal s = s.fsm := by
  refine if_neg ?_
  cases hc : s.control with
  | idle | ff | done => rw [State.rc, hc]; decide
  | run r => exact absurd (congrArg Control.fsm hc) h

/-- Settles O43: the pair that each of the three writes is unreachable. -/
theorem unselectedMicroOpIsRefused : Obligations.UnselectedMicroOpIsRefused := by
  intro s
  refine ⟨fun h => writeControl_refused (not_reachable_succ h) _, fun h => ?_, fun h => ?_⟩
  · have hw := writeControl_refused (not_reachable_succ fun hrun => h hrun.1) (applyRound diagRound s)
    rwa [← fsmAfterDiagonal_of_not_run h] at hw ⊢
  · exact writeControl_refused (by simpa [controlReachable] using h) _

/-! ## A placed selector (log 8) -/

/-- The selection reads no more of rc than its parity, and that in RUN alone. -/
theorem caseSelect_congr {c d : Selector} (hrst : c.rst = d.rst) (hstart : c.start = d.start) (hf : c.fsm = d.fsm)
    (hpar : c.fsm = .run → c.rc.toNat % 2 = d.rc.toNat % 2) : caseSelect c = caseSelect d := by
  cases hr : c.rst with
  | true => rw [caseSelect_of_rst hr, caseSelect_of_rst (hrst ▸ hr)]
  | false =>
    cases h : c.fsm with
    | idle => rw [caseSelect_of_idle hr h, caseSelect_of_idle (hrst ▸ hr) (hf ▸ h), hstart]
    | done => rw [caseSelect_of_done hr h, caseSelect_of_done (hrst ▸ hr) (hf ▸ h), hstart]
    | run => rw [caseSelect_of_run hr h, caseSelect_of_run (hrst ▸ hr) (hf ▸ h), hpar h]
    | ff => rw [caseSelect_of_ff hr h, caseSelect_of_ff (hrst ▸ hr) (hf ▸ h)]

theorem controlOf_fsm (c : Selector) : (controlOf c).fsm = c.fsm := by
  cases hf : c.fsm with
  | idle | ff | done => rw [controlOf, hf]; rfl
  | run =>
    rw [controlOf, hf]
    by_cases hr : c.rc.toNat < 20 <;> simp [hr]

theorem controlOf_rc_parity {c : Selector} (h : c.fsm = .run) : (controlOf c).rc.toNat % 2 = c.rc.toNat % 2 := by
  rw [controlOf, h]
  by_cases hr : c.rc.toNat < 20
  · simp [hr]
  · simp [hr, Nat.mod_mod_of_dvd]

/-- The placed selector is in the row of the CS value, even where its pair is not the CS value's. -/
theorem decodeCS_placeSelector (s : State) (cs : BitVec 9) : decodeCS (s.placeSelector cs).selector.bits = decodeCS cs := by
  rw [decodeCS_bits, ← bits_selectorOfBits cs, decodeCS_bits, bits_selectorOfBits]
  refine caseSelect_congr rfl rfl (controlOf_fsm _) fun h => controlOf_rc_parity ?_
  rwa [← controlOf_fsm]

theorem csBytes_ofNat {w : Nat} (hw : w < 512) :
    csBytes (BitVec.ofNat 9 w) = [BitVec.ofNat 8 w, BitVec.ofNat 8 (w / 256)] := by
  have hlo : (BitVec.ofNat 9 w).extractLsb' 0 8 = BitVec.ofNat 8 w := by
    apply BitVec.eq_of_toNat_eq
    simp only [BitVec.extractLsb'_toNat, BitVec.toNat_ofNat, Nat.shiftRight_zero]
    omega
  have hhi : ((BitVec.ofNat 9 w).extractLsb' 8 1).zeroExtend 8 = BitVec.ofNat 8 (w / 256) := by
    apply BitVec.eq_of_toNat_eq
    simp only [BitVec.truncate_eq_setWidth, BitVec.toNat_setWidth, BitVec.extractLsb'_toNat, BitVec.toNat_ofNat,
      Nat.shiftRight_eq_div_pow]
    omega
  rw [csBytes, hlo, hhi]

theorem decodeTableWord_eq {w : Nat} (hw : w < 512) : decodeTableWord 16 w = some (decodeCS (BitVec.ofNat 9 w)) := by
  rw [decodeTableWord, if_pos (by omega), ← csBytes_ofNat hw, decode_csBytes]

/-- Settles O8: the table word and the placed selector decode to the micro-op of the CS value, and the step is total. -/
theorem placedSelectorRuns : Obligations.PlacedSelectorRuns := by
  intro s w hw
  obtain ⟨t, ht⟩ := step_total (s.withFetchWord 16 w)
  refine ⟨_, t, decodeTableWord_eq hw, ?_, ht⟩
  rw [State.withFetchWord, decodeCS_placeSelector, Nat.mod_eq_of_lt (by omega)]

/-! ## The named blocks (30_encoding.md R71) -/

theorem toNat_blockOf_seq0 (k : Fin 64) : ((blockOf .seq0)[k]).toNat = k.val := by
  simp [blockOf]; omega

theorem toNat_blockOf_seq1 (k : Fin 64) : ((blockOf .seq1)[k]).toNat = k.val + 1 := by
  simp [blockOf]; omega

theorem toNat_blockOf_seq1_16 (k : Fin 64) :
    ((blockOf .seq1_16)[k]).toNat = if k.val < 16 then k.val + 1 else 0 := by
  by_cases h : k.val < 16
  · simp [blockOf, h]; omega
  · simp [blockOf, h]

theorem toNat_le32_wseq1 (i : Fin 16) : (le32 (blockOf .wseq1) i).toNat = i.val + 1 := by
  rw [blockOf, le32_serialize]
  simp; omega

/-- Byte k is the digit pair k from the left, number 63 - k from the right. -/
theorem toNat_blockOf_hex128 (d : BitVec 512) (k : Fin 64) :
    ((blockOf (.hex128 d))[k]).toNat = d.toNat / 256 ^ (63 - k.val) % 256 := by
  simp [blockOf, ofHex128, Nat.shiftRight_eq_div_pow, Nat.pow_mul]

/-- Settles O41: a lemma for each block, read byte by byte or word by word. -/
theorem namedBlocks : Obligations.NamedBlocks :=
  ⟨fun k => ⟨by simp [blockOf], by simp [blockOf], toNat_blockOf_seq0 k, toNat_blockOf_seq1 k, toNat_blockOf_seq1_16 k⟩,
    toNat_le32_wseq1, toNat_blockOf_hex128⟩

end Sys2Proof.Machine
